-- ==== Sys2Proof/Word.lean ====
section
/-!
DEFINITION. The data path's word. The spec fixes the width `W` of the registers at 32 bits
(00_scope.md R4, 92_eei_decisions.md D1): signed two's complement for `PW`, `CFG_STEP`, `CFG_LO`,
`CFG_HI`, `CFG_BASE`, unsigned for `CMP`.
-/

namespace Sys2Proof

/-- `W`, the width in bits of the data path (00_scope.md R4). -/
abbrev wordWidth : Nat := 32

/-- One register of the data path (00_scope.md R4, 30_encoding.md R52). -/
abbrev Word := BitVec 32

end Sys2Proof
end

