-- ==== Sys2Proof/Syntax.lean ====
section
/-!
DEFINITION. The operations of the block, one constructor per row of the decode table
(30_encoding.md R50), and the fields of the control word they carry. The block has no instruction
stream (R45): what is "decoded" is the five-bit control word of R46.
-/

namespace Sys2Proof

/-- The operating mode, `CFG_MODE` (10_state.md R15). -/
inductive Mode where
  /-- Code 0: the pulse width holds a fixed commanded value, clamped but never swept. -/
  | static
  /-- Code 1: the pulse width oscillates between the bounds. -/
  | sweep
  deriving DecidableEq, Repr, Inhabited

/-- The sweep direction, `DIR` (10_state.md R12). -/
inductive Direction where
  /-- Code 0: the increment applied is `+abs(STEP)`. -/
  | rising
  /-- Code 1: the increment applied is `-abs(STEP)`. -/
  | falling
  deriving DecidableEq, Repr, Inhabited

/-- The sequencing register `PHASE` (10_state.md R14, 30_encoding.md R47). -/
inductive Phase where
  /-- `0b00`: no service in progress. -/
  | idle
  /-- `0b01`: the period has been acknowledged, `advance` has not been applied. -/
  | acked
  /-- `0b10`: `(PW, DIR)` has been replaced, the compare register has not been written. -/
  | advanced
  /-- `0b11`: reserved (30_encoding.md R51); no rule writes it. It is kept because the decode table
  has a row for it, and because a model that represents it refuses it (41_period_tick_driver.md R85). -/
  | reserved
  deriving DecidableEq, Repr, Inhabited

/-- The seven operations of 30_encoding.md R50. A constructor carries the bits of the control word
that its row leaves free: `t` is `TICK_PENDING`, `m` is `CFG_MODE`, `d` is `DIR`. So an `Instr` and a
control word hold the same information. -/
inductive Instr where
  /-- WAIT, pattern `000md`: nothing to do (41_period_tick_driver.md R81). -/
  | wait (m : Mode) (d : Direction)
  /-- ACK, pattern `001md`: acknowledge the elapsed period (41_period_tick_driver.md R82). -/
  | ack (m : Mode) (d : Direction)
  /-- ADV.STATIC, pattern `01t0d`: advance in Static mode (40_waveform_generator.md R63). -/
  | advStatic (t : Bool) (d : Direction)
  /-- ADV.RISE, pattern `01t10`: advance in Sweep mode, Rising (40_waveform_generator.md R64). -/
  | advRise (t : Bool)
  /-- ADV.FALL, pattern `01t11`: advance in Sweep mode, Falling (40_waveform_generator.md R65). -/
  | advFall (t : Bool)
  /-- CMPWR, pattern `10tmd`: write the compare register (41_period_tick_driver.md R84). -/
  | cmpwr (t : Bool) (m : Mode) (d : Direction)
  /-- RSVD, pattern `11tmd`: the reserved phase (41_period_tick_driver.md R85). -/
  | rsvd (t : Bool) (m : Mode) (d : Direction)
  deriving DecidableEq, Repr, Inhabited

end Sys2Proof
end

