-- ==== Sys2Proof/Machine/Operands.lean ====
section
/-!
DEFINITION. Operand assembly: the signed step of a Sweep-mode advance and the tentative value
(30_encoding.md R53, 40_waveform_generator.md R62). All arithmetic is over the integers, with no
wrap-around (00_scope.md R7).
-/

namespace Sys2Proof.Machine

/-- `abs(v)` (00_scope.md R7). -/
def magnitude (v : Int) : Int := if 0 ≤ v then v else -v

/-- The signed step: the magnitude is `abs(STEP)`, the sign is the direction (30_encoding.md R53). -/
def signedStep (d : Direction) (step : Int) : Int :=
  match d with
  | .rising => magnitude step
  | .falling => -magnitude step

/-- The tentative value, formed in full before any test (40_waveform_generator.md R62). -/
def tentative (current : Int) (d : Direction) (step : Int) : Int := current + signedStep d step

end Sys2Proof.Machine
end

