-- ==== Sys2Proof/Config.lean ====
section
/-!
DEFINITION. What is configured or left open: the seven configuration values presented at RESET
(00_scope.md R5), the values the model names for the four that the spec leaves open, and the two
open parameters of the tick source that no rule of the core reads.
-/

namespace Sys2Proof

/-- The configuration presented at RESET, the `cfg` of 70_reset_and_hazards.md R120, with the
defaults of 00_scope.md R5 for the bounds and the baseline. -/
structure Cfg where
  /-- `MODE`. -/
  mode : Mode
  /-- `STEP`, ticks per period; its sign is ignored. -/
  step : Word
  /-- `PW_INIT`, consumed by RESET and kept nowhere (10_state.md R10). -/
  pwInit : Word
  /-- `DIR_INIT`, consumed by RESET and kept nowhere. -/
  dirInit : Direction
  /-- `LO`, default 0. -/
  lo : Word := 0#32
  /-- `HI`, default 48000. -/
  hi : Word := 48000#32
  /-- `BASE`, default 48000. -/
  base : Word := 48000#32
  deriving DecidableEq, Repr, Inhabited

/-- The configuration that `State.reset` has latched. The spec leaves `MODE`, `STEP`, `PW_INIT` and
`DIR_INIT` open (92_eei_decisions.md D12); the model names the value zero for each.
DESIGN CHOICE, unsafe (notes/assumptions/2.md). -/
def Config.resetCfg : Cfg where
  mode := .static
  step := 0#32
  pwInit := 0#32
  dirInit := .rising

/-- When a compare write acts on the waveform (20_memory.md R43, 92_eei_decisions.md D21). -/
inductive CmpEffect where
  | immediate
  | nextPeriod
  deriving DecidableEq, Repr, Inhabited

/-- `CMP_EFFECT`, open (92_eei_decisions.md D21); it belongs to the tick source and no rule reads it. -/
opaque Config.cmpEffect : CmpEffect

/-- `PERIOD_TICKS`, open (92_eei_decisions.md D22); it belongs to the tick source and no rule reads it. -/
opaque Config.periodTicks : Nat

end Sys2Proof
end

