-- ==== Sys2Proof/Machine/State.lean ====
section
/-!
DEFINITION. The state of the machine: the ten registers of 10_state.md R10, the two model-level
marks, the trace of emitted events, and the agenda that says which agent moves next. The block has
no memory and no addresses (20_memory.md R30), so no field holds bytes.
-/

namespace Sys2Proof.Machine

/-- An event the core emits (20_memory.md R38). -/
inductive Event where
  /-- `Ack`: the acknowledgment of the elapsed period. -/
  | ack
  /-- `Cmp(v)`: the write of `v` to the compare register. -/
  | cmp (v : Word)
  deriving DecidableEq, Repr

/-- Which agent takes the next step (00_scope.md section 6; 20_memory.md R39). -/
inductive Turn where
  /-- The core takes the micro-step its control word selects. -/
  | core
  /-- The tick source takes PERIOD (60_exceptions.md R103). -/
  | period
  /-- The configuration agent takes RESET(cfg) (70_reset_and_hazards.md R120). -/
  | reset (cfg : Cfg)
  deriving DecidableEq, Repr

/-- Faults: none. The core raises no exception, has no trap and no error output (60_exceptions.md
R100), so no step of the machine answers with a fault. -/
inductive Fault where
  deriving DecidableEq, Repr

/-- Refusals: where the spec says that a model gives the machine no meaning. -/
inductive Refusal where
  /-- Raised by an arm of `exec` whose operation has no meaning in this model yet. No arm raises it.
  Safe: nothing can be proved about what follows. -/
  | notModelled (mnemonic : String)
  /-- Raised by RSVD: the phase value `0b11` is reserved and the spec has a model refuse it
  (41_period_tick_driver.md R85, 93_implementation_defined.md U4). Safe: unreachable from RESET. -/
  | reservedPhase
  /-- Raised by CMPWR when `BASE + PW` is below 0 or above `2^31 - 1`: the spec has a model refuse it and
  forbids a wrap (93_implementation_defined.md U3). Safe. -/
  | compareValueOutOfRange
  /-- Raised by a turn of the core while the mark `ConfigRefused` is set: a configuration outside WF1 to
  WF4 gives the machine no runs (60_exceptions.md R101, 93_implementation_defined.md U2). Safe. -/
  | illFormedConfiguration
  deriving DecidableEq, Repr

/-- The state. The first ten fields are the registers of 10_state.md R10; the last four are the
model's own (10_state.md R21; notes/assumptions/1.md and 10.md). -/
structure State where
  /-- `PW`, signed (10_state.md R11). -/
  pw : Word
  /-- `DIR` (10_state.md R12). -/
  dir : Direction
  /-- `PHASE` (10_state.md R14). -/
  phase : Phase
  /-- `CFG_MODE` (10_state.md R15). -/
  cfgMode : Mode
  /-- `CFG_STEP`, signed (10_state.md R15). -/
  cfgStep : Word
  /-- `CFG_LO`, signed (10_state.md R15). -/
  cfgLo : Word
  /-- `CFG_HI`, signed (10_state.md R15). -/
  cfgHi : Word
  /-- `CFG_BASE`, signed (10_state.md R15). -/
  cfgBase : Word
  /-- `CMP`, unsigned (10_state.md R16). -/
  cmp : Word
  /-- `TICK_PENDING` (10_state.md R17). -/
  tickPending : Bool
  /-- The mark `Overrun` (60_exceptions.md R102); not hardware state. -/
  overrun : Bool
  /-- The mark `ConfigRefused` (60_exceptions.md R101); not hardware state. -/
  configRefused : Bool
  /-- The events emitted so far, oldest first (20_memory.md R38); not hardware state. -/
  trace : List Event
  /-- The turns to come, first to move first; when it is empty the core moves (notes/assumptions/1.md). -/
  agenda : List Turn
  deriving DecidableEq, Repr

/-- The machine right after RESET: the register values of 10_state.md R22 for the configuration
`Config.resetCfg`, both marks clear, nothing emitted and nothing scheduled. `CMP` and
`TICK_PENDING` are not written by RESET; the values 0 here are DESIGN CHOICES
(notes/assumptions/3.md and 4.md), unsafe. -/
def State.reset : State where
  pw := Config.resetCfg.pwInit
  dir := Config.resetCfg.dirInit
  phase := .idle
  cfgMode := Config.resetCfg.mode
  cfgStep := Config.resetCfg.step
  cfgLo := Config.resetCfg.lo
  cfgHi := Config.resetCfg.hi
  cfgBase := Config.resetCfg.base
  cmp := 0#32
  tickPending := false
  overrun := false
  configRefused := false
  trace := []
  agenda := []

end Sys2Proof.Machine
end

