-- ==== Sys2Proof/Machine/ConfigurationAgent.lean ====
section
/-!
DEFINITION. The configuration agent's one step, RESET(cfg) (70_reset_and_hazards.md R120), and the
well-formedness of a configuration (00_scope.md R6). The conditions are over the integers and take
the width `W` as an argument, as the spec states them.
-/

namespace Sys2Proof.Machine

/-- WF1: `LO <= HI` (00_scope.md R6). -/
def wf1 (lo hi : Int) : Bool := decide (lo ≤ hi)

/-- WF2: `abs(STEP) <= HI - LO` (00_scope.md R6). -/
def wf2 (lo hi step : Int) : Bool := decide (magnitude step ≤ hi - lo)

/-- WF3: the tentative sum and `abs(STEP)` fit `sW` (00_scope.md R6). -/
def wf3 (w : Nat) (lo hi step : Int) : Bool :=
  decide (-(2 : Int) ^ (w - 1) ≤ lo - magnitude step)
    && decide (hi + magnitude step ≤ (2 : Int) ^ (w - 1) - 1)
    && decide (step ≠ -(2 : Int) ^ (w - 1))

/-- WF4: every compare value is non-negative and fits `sW` (00_scope.md R6). -/
def wf4 (w : Nat) (lo hi base : Int) : Bool :=
  decide (0 ≤ base + lo) && decide (base + hi ≤ (2 : Int) ^ (w - 1) - 1)

/-- WF5: `LO <= PW_INIT <= HI` (00_scope.md R6); no ground for refusal (92_eei_decisions.md D17). -/
def wf5 (lo hi pwInit : Int) : Bool := decide (lo ≤ pwInit) && decide (pwInit ≤ hi)

/-- WF1 to WF4 together, at width `w`: what a model refuses a configuration for lacking. -/
def wfCore (w : Nat) (lo hi base step : Int) : Bool :=
  wf1 lo hi && wf2 lo hi step && wf3 w lo hi step && wf4 w lo hi base

/-- A configuration the model does not refuse: WF1 to WF4 (60_exceptions.md R101). -/
def cfgAccepted (c : Cfg) : Bool :=
  wfCore wordWidth c.lo.toInt c.hi.toInt c.base.toInt c.step.toInt

/-- A well-formed configuration `WF(cfg)`: WF1 to WF5 (00_scope.md R6). -/
def cfgWellFormed (c : Cfg) : Bool :=
  cfgAccepted c && wf5 c.lo.toInt c.hi.toInt c.pwInit.toInt

/-- WF1 to WF4 of the latched configuration registers. -/
def latchedAccepted (s : State) : Bool :=
  wfCore wordWidth s.cfgLo.toInt s.cfgHi.toInt s.cfgBase.toInt s.cfgStep.toInt

/-- RESET(cfg): latches the configuration, sets the pair to its initial values and the phase to
`Idle`, clears `Overrun` and sets `ConfigRefused` as the configuration is. `CMP` and
`TICK_PENDING` are not written and no event is emitted (70_reset_and_hazards.md R120). -/
def takeReset (c : Cfg) (s : State) : State :=
  { s with
    cfgMode := c.mode
    cfgStep := c.step
    cfgLo := c.lo
    cfgHi := c.hi
    cfgBase := c.base
    pw := c.pwInit
    dir := c.dirInit
    phase := .idle
    overrun := false
    configRefused := !cfgAccepted c }

end Sys2Proof.Machine
end

