-- ==== Sys2Proof/WellFormed.lean ====
section
/-!
DEFINITION. Well-formedness of an operation. The operand types of `Instr` admit exactly the values
the encoding admits, so the one check left is the reserved space of 30_encoding.md R51. (The
well-formedness of a CONFIGURATION, 00_scope.md R6, stands in Machine/ConfigurationAgent.lean.)
-/

namespace Sys2Proof

/-- An operation the spec gives a meaning: any but RSVD (30_encoding.md R51). -/
def Instr.wellFormed : Instr → Bool
  | .wait _ _ => true
  | .ack _ _ => true
  | .advStatic _ _ => true
  | .advRise _ => true
  | .advFall _ => true
  | .cmpwr _ _ _ => true
  | .rsvd _ _ _ => false

end Sys2Proof
end

