-- ==== Sys2Proof/Decode.lean ====
section
/-!
DEFINITION. The control word (30_encoding.md R46), its decoding (R50) and its encoding. The decode
is total over the 32 words; a number that is no five-bit word is rejected by name.
-/

namespace Sys2Proof

/-- The code of `CFG_MODE` (30_encoding.md R48). -/
def Mode.code : Mode → BitVec 1
  | .static => 0b0#1
  | .sweep => 0b1#1

/-- The mode a code stands for (30_encoding.md R48). -/
def Mode.ofBit (b : Bool) : Mode := if b then .sweep else .static

/-- The code of `DIR` (30_encoding.md R49). -/
def Direction.code : Direction → BitVec 1
  | .rising => 0b0#1
  | .falling => 0b1#1

/-- The direction a code stands for (30_encoding.md R49). -/
def Direction.ofBit (b : Bool) : Direction := if b then .falling else .rising

/-- The code of `PHASE` (30_encoding.md R47). -/
def Phase.code : Phase → BitVec 2
  | .idle => 0b00#2
  | .acked => 0b01#2
  | .advanced => 0b10#2
  | .reserved => 0b11#2

/-- The phase a code stands for, from its bits 1 and 0 (30_encoding.md R47). -/
def Phase.ofBits (hi lo : Bool) : Phase :=
  if hi then (if lo then .reserved else .advanced) else (if lo then .acked else .idle)

/-- `CTRL[4:0] = {PHASE[1:0], TICK_PENDING, CFG_MODE, DIR}` (30_encoding.md R46). -/
def packControlWord (p : Phase) (t : Bool) (m : Mode) (d : Direction) : BitVec 5 :=
  p.code ++ BitVec.ofBool t ++ m.code ++ d.code

/-- The phase field `CTRL[4:3]`. -/
def ctrlPhase (c : BitVec 5) : Phase := Phase.ofBits (c.getLsbD 4) (c.getLsbD 3)

/-- The pending field `CTRL[2]`. -/
def ctrlTick (c : BitVec 5) : Bool := c.getLsbD 2

/-- The mode field `CTRL[1]`. -/
def ctrlMode (c : BitVec 5) : Mode := Mode.ofBit (c.getLsbD 1)

/-- The direction field `CTRL[0]`. -/
def ctrlDir (c : BitVec 5) : Direction := Direction.ofBit (c.getLsbD 0)

/-- The operation that the four fields of a control word select (30_encoding.md R50). -/
def selectOperation (p : Phase) (t : Bool) (m : Mode) (d : Direction) : Instr :=
  match p with
  | .idle => if t then .ack m d else .wait m d
  | .acked =>
    match m with
    | .static => .advStatic t d
    | .sweep =>
      match d with
      | .rising => .advRise t
      | .falling => .advFall t
  | .advanced => .cmpwr t m d
  | .reserved => .rsvd t m d

/-- The decode of a control word: total over the 32 words (30_encoding.md R50). -/
def decodeCtrl (c : BitVec 5) : Instr :=
  selectOperation (ctrlPhase c) (ctrlTick c) (ctrlMode c) (ctrlDir c)

/-- Why a number is not decoded. -/
inductive DecodeReject where
  /-- The number needs more than the five bits of a control word (30_encoding.md R46). -/
  | notAControlWord
  deriving DecidableEq, Repr

/-- The decode of any number: a control word is its operation, anything wider is rejected by name. -/
def decodeWord (w : Nat) : Except DecodeReject Instr :=
  if w < 32 then .ok (decodeCtrl (BitVec.ofNat 5 w)) else .error .notAControlWord

/-- The operation the decoder reads from a row's word of `nbits` bits, every higher bit being 0. The
control word is one word with bit 0 least significant and has no byte order (20_memory.md R34). -/
def decodeTableWord (nbits w : Nat) : Option Instr :=
  match decodeWord (w % 2 ^ nbits) with
  | .ok i => some i
  | .error _ => none

/-- The control word of an operation, from the patterns of 30_encoding.md R50. -/
def encode : Instr → BitVec 5
  | .wait m d => packControlWord .idle false m d
  | .ack m d => packControlWord .idle true m d
  | .advStatic t d => packControlWord .acked t .static d
  | .advRise t => packControlWord .acked t .sweep .rising
  | .advFall t => packControlWord .acked t .sweep .falling
  | .cmpwr t m d => packControlWord .advanced t m d
  | .rsvd t m d => packControlWord .reserved t m d

/-- The name of an operation in the decode table. -/
def Instr.mnemonic : Instr → String
  | .wait _ _ => "WAIT"
  | .ack _ _ => "ACK"
  | .advStatic _ _ => "ADV.STATIC"
  | .advRise _ => "ADV.RISE"
  | .advFall _ => "ADV.FALL"
  | .cmpwr _ _ _ => "CMPWR"
  | .rsvd _ _ _ => "RSVD"

/-- One row of the decode table: a word `c` selects it when `c & mask == bits` (30_encoding.md R50). -/
structure OpcodeRow where
  name : String
  mask : BitVec 5
  bits : BitVec 5
  deriving DecidableEq, Repr

/-- The decode table as the spec prints it (30_encoding.md R50). -/
def opcodeRows : List OpcodeRow :=
  [ ⟨"WAIT", 0b11100#5, 0b00000#5⟩
  , ⟨"ACK", 0b11100#5, 0b00100#5⟩
  , ⟨"ADV.STATIC", 0b11010#5, 0b01000#5⟩
  , ⟨"ADV.RISE", 0b11011#5, 0b01010#5⟩
  , ⟨"ADV.FALL", 0b11011#5, 0b01011#5⟩
  , ⟨"CMPWR", 0b11000#5, 0b10000#5⟩
  , ⟨"RSVD", 0b11000#5, 0b11000#5⟩ ]

/-- Whether a control word selects a row (30_encoding.md R50). -/
def OpcodeRow.selects (r : OpcodeRow) (c : BitVec 5) : Bool := (c &&& r.mask) == r.bits

end Sys2Proof
end

