-- ==== Sys2Proof/Machine/Ops.lean ====
section
/-!
DEFINITION. The named operations over the registers: the control word, the two access primitives
`TickAck` and `CmpWrite`, the atomic write of `(PW, DIR)`, and the entry into and return from a tick
service (the block's only form of taking an event, 60_exceptions.md R107 and R108).
-/

namespace Sys2Proof.Machine

/-- The control word of a state: the concatenation of four pieces of state at the moment a step is
taken, stored nowhere (30_encoding.md R46). -/
def controlWord (s : State) : BitVec 5 :=
  packControlWord s.phase s.tickPending s.cfgMode s.dir

/-- The same state with the four fields of a control word at the given values. -/
def withControlWord (c : BitVec 5) (s : State) : State :=
  { s with phase := ctrlPhase c, tickPending := ctrlTick c, cfgMode := ctrlMode c, dir := ctrlDir c }

/-- The signed word that holds an integer of `s32`; the users of it show that their integer is one. -/
def toWord (v : Int) : Word := BitVec.ofInt 32 v

/-- An event is added at the end of the trace (20_memory.md R38). -/
def emit (e : Event) (s : State) : State := { s with trace := s.trace ++ [e] }

/-- `TickAck()`: `TICK_PENDING <- 0`, and the event `Ack` (20_memory.md R33). -/
def tickAck (s : State) : State := emit .ack { s with tickPending := false }

/-- `CmpWrite(v)`: `CMP <- v` as one whole-word transfer, and the event `Cmp(v)` (20_memory.md R32). -/
def cmpWrite (v : Word) (s : State) : State := emit (.cmp v) { s with cmp := v }

/-- `PW` and `DIR` written together as one unit (10_state.md R13). -/
def setPair (n : Int) (e : Direction) (s : State) : State := { s with pw := toWord n, dir := e }

/-- `PHASE <- p` (10_state.md R14). -/
def setPhase (p : Phase) (s : State) : State := { s with phase := p }

/-- Entry into a tick service, the block's form of taking an event: acknowledge, and leave `Idle`.
Nothing is saved, nothing is masked, there is no vector (60_exceptions.md R107). -/
def enterService (s : State) : State := setPhase .acked (tickAck s)

/-- Return from a tick service: back to `Idle`. Nothing is restored (60_exceptions.md R108). -/
def leaveService (s : State) : State := setPhase .idle s

/-- The compare value `BASE + PW` over the integers (41_period_tick_driver.md R89). -/
def compareValue (s : State) : Int := s.cfgBase.toInt + s.pw.toInt

/-- Whether a compare value is one the spec defines: non-negative, so that it fits the unsigned
register unchanged, and within `s32`, so that it fits the signed adder (00_scope.md R6 WF4,
93_implementation_defined.md U3). -/
def compareValueFits (v : Int) : Bool := decide (0 ≤ v) && decide (v ≤ 2147483647)

end Sys2Proof.Machine
end

