-- ==== Sys2Proof/Machine/PeriodTickDriver.lean ====
section
/-!
DEFINITION. The Period Tick Driver's own operations: WAIT, ACK, CMPWR, and the reserved RSVD
(41_period_tick_driver.md).
-/

namespace Sys2Proof.Machine

/-- WAIT: the core is not enabled, nothing changes and nothing is emitted (41_period_tick_driver.md R81). -/
def execWait (s : State) : Host.Outcome State Fault Refusal := .next s

/-- ACK: the first action of a service (41_period_tick_driver.md R82). -/
def execAck (s : State) : Host.Outcome State Fault Refusal := .next (enterService s)

/-- CMPWR: `v = BASE + PW`, `CmpWrite(v)`, and the service returns (41_period_tick_driver.md R84). A
value outside those the spec defines is refused, never wrapped (93_implementation_defined.md U3). -/
def execCmpwr (s : State) : Host.Outcome State Fault Refusal :=
  if compareValueFits (compareValue s) then
    .next (leaveService (cmpWrite (toWord (compareValue s)) s))
  else .refused .compareValueOutOfRange

/-- RSVD: the spec gives it no meaning; a model that represents the reserved phase refuses it, neither a
value nor a no-op (41_period_tick_driver.md R85). -/
def execRsvd (_ : State) : Host.Outcome State Fault Refusal := .refused .reservedPhase

end Sys2Proof.Machine
end

