-- ==== Sys2Proof/Machine/Flags.lean ====
section
/-!
DEFINITION. The two saturation conditions and the status value they determine, the direction. They
are combinational values inside one advance and are not stored (10_state.md R19); the block has no
condition codes.
-/

namespace Sys2Proof.Machine

/-- `sat_hi`: the tentative value touches or exceeds the upper bound (40_waveform_generator.md R66,
90_conflicts.md C1). -/
def satHi (hi t : Int) : Bool := decide (hi ≤ t)

/-- `sat_lo`: the tentative value touches or exceeds the lower bound, and the upper test, which is made
first, failed (40_waveform_generator.md R66). -/
def satLo (lo hi t : Int) : Bool := decide (t ≤ lo) && !satHi hi t

/-- The direction after an advance: Falling on an upper saturation, Rising on a lower one, otherwise
kept (40_waveform_generator.md R66, 10_state.md R19). -/
def nextDirection (lo hi t : Int) (d : Direction) : Direction :=
  if satHi hi t then .falling else if satLo lo hi t then .rising else d

/-- The value after an advance: snapped to the bound on a saturation (40_waveform_generator.md R66). -/
def nextValue (lo hi t : Int) : Int :=
  if satHi hi t then hi else if satLo lo hi t then lo else t

end Sys2Proof.Machine
end

