-- ==== Sys2Proof/Machine/WaveformGenerator.lean ====
section
/-!
DEFINITION. The Waveform Generator: the pure function `advance` (40_waveform_generator.md R60) and the
three operations that apply it.
-/

namespace Sys2Proof.Machine

/-- `advance(current, direction, step, mode)` with the bounds as two further inputs: R61 in Static mode
(no lower clamp, `step` and `lo` not read), R62 and R66 in Sweep mode. -/
def advance (lo hi current : Int) (d : Direction) (step : Int) (mode : Mode) : Int × Direction :=
  match mode with
  | .static => (min current hi, d)
  | .sweep =>
    let t := tentative current d step
    (nextValue lo hi t, nextDirection lo hi t d)

/-- The shared body of the three ADV operations: `(PW, DIR)` becomes the result of `advance` for the
given direction and mode, and `PHASE <- Advanced` (41_period_tick_driver.md R83). -/
def applyAdvance (d : Direction) (mode : Mode) (s : State) : State :=
  let r := advance s.cfgLo.toInt s.cfgHi.toInt s.pw.toInt d s.cfgStep.toInt mode
  setPhase .advanced (setPair r.1 r.2 s)

/-- ADV.STATIC (40_waveform_generator.md R63). -/
def execAdvStatic (s : State) : Host.Outcome State Fault Refusal :=
  .next (applyAdvance s.dir .static s)

/-- ADV.RISE (40_waveform_generator.md R64). -/
def execAdvRise (s : State) : Host.Outcome State Fault Refusal :=
  .next (applyAdvance .rising .sweep s)

/-- ADV.FALL (40_waveform_generator.md R65). -/
def execAdvFall (s : State) : Host.Outcome State Fault Refusal :=
  .next (applyAdvance .falling .sweep s)

end Sys2Proof.Machine
end

