-- ==== Sys2Proof/Machine/Dispatch.lean ====
section
/-!
DEFINITION. One arm per operation of the decode table. The bits that a row leaves free are not looked
at (30_encoding.md R50), so no meaning takes them: each reads the registers of the state.
-/

namespace Sys2Proof.Machine

def exec (i : Instr) (s : State) : Host.Outcome State Fault Refusal :=
  match i with
  | .wait _ _ => Sys2Proof.Machine.execWait s
  | .ack _ _ => Sys2Proof.Machine.execAck s
  | .advStatic _ _ => Sys2Proof.Machine.execAdvStatic s
  | .advRise _ => Sys2Proof.Machine.execAdvRise s
  | .advFall _ => Sys2Proof.Machine.execAdvFall s
  | .cmpwr _ _ _ => Sys2Proof.Machine.execCmpwr s
  | .rsvd _ _ _ => Sys2Proof.Machine.execRsvd s

end Sys2Proof.Machine
end

