-- ==== Sys2Proof/Machine/TickSource.lean ====
section
/-!
DEFINITION. The tick source's one step, PERIOD (60_exceptions.md R103), and the quiescent states.
-/

namespace Sys2Proof.Machine

/-- Whether no service is in progress (10_state.md R14). -/
def phaseIsIdle (p : Phase) : Bool :=
  match p with
  | .idle => true
  | .acked => false
  | .advanced => false
  | .reserved => false

/-- A quiescent state: no service in progress and no period pending (10_state.md R23). -/
def isQuiescent (s : State) : Bool := phaseIsIdle s.phase && !s.tickPending

/-- PERIOD: marks `Overrun` when the state is not quiescent, and sets `TICK_PENDING`; it reads and
writes nothing else (60_exceptions.md R102, R103). -/
def takePeriod (s : State) : State :=
  { s with overrun := s.overrun || !isQuiescent s, tickPending := true }

end Sys2Proof.Machine
end

