-- ==== Sys2Proof/Machine/Agents.lean ====
section
/-!
DEFINITION. The turns of the three agents (00_scope.md section 6). Each turn is atomic and every
interleaving is some agenda (20_memory.md R39).
-/

namespace Sys2Proof.Machine

/-- A turn of the core: the micro-step its control word selects (30_encoding.md R50). While the mark
`ConfigRefused` is set the core's machine has no runs (60_exceptions.md R101). -/
def coreTurn (s : State) : Host.Outcome State Fault Refusal :=
  if s.configRefused then .refused .illFormedConfiguration
  else exec (decodeCtrl (controlWord s)) s

/-- The step of the agent whose turn it is. PERIOD and RESET are enabled in every state
(60_exceptions.md R103, 70_reset_and_hazards.md R120). -/
def takeTurn (t : Turn) (s : State) : Host.Outcome State Fault Refusal :=
  match t with
  | .core => coreTurn s
  | .period => .next (takePeriod s)
  | .reset cfg => .next (takeReset cfg s)

/-- Whose turn it is: the head of the agenda, or the core when nothing is scheduled. -/
def headTurn (s : State) : Turn :=
  match s.agenda with
  | [] => .core
  | t :: _ => t

/-- The state with the turn about to be taken removed from the agenda. -/
def popTurn (s : State) : State := { s with agenda := s.agenda.tail }

end Sys2Proof.Machine
end

