-- ==== Sys2Proof/Machine/Step.lean ====
section
/-!
DEFINITION. One step of the machine: the turn at the head of the agenda is taken off and its agent
moves. The three outcomes are a next state, a fault (never, 60_exceptions.md R100) and a refusal.
-/

namespace Sys2Proof.Machine

/-- One step of one agent. -/
def step (s : State) : Host.Outcome State Fault Refusal :=
  takeTurn (headTurn s) (popTurn s)

/-- The state whose next step is the core's and whose control word is the low five bits of `w`. The
"fetch" of this block is the reading of its control word (30_encoding.md R46), so the four registers
that make it are set and a turn of the core is put in front of the agenda; nothing else changes. -/
def State.withFetchWord (s : State) (nbits w : Nat) : State :=
  { withControlWord (BitVec.ofNat 5 (w % 2 ^ nbits)) s with agenda := .core :: s.agenda }

end Sys2Proof.Machine
end

