-- ==== Sys2Proof/Safety.lean ====
section
/-!
DEFINITION. The terms the statements use: runs of the machine, the legal and the safe states, the
well-formed agendas, and the spec's own sequences (the iterated `advance` and the events of `n`
services), written without reference to the step.
-/

namespace Sys2Proof.Machine

/-- `k` steps of the machine, stopping at the first one that gives no next state. -/
def run : Nat → State → Host.Outcome State Fault Refusal
  | 0, s => .next s
  | k + 1, s =>
    match step s with
    | .next t => run k t
    | .fault f => .fault f
    | .refused r => .refused r

/-- What the core can do: the mark `ConfigRefused` says what WF1 to WF4 of the latched configuration say,
and `PHASE` is not the reserved value (10_state.md R14, 60_exceptions.md R101). -/
abbrev Legal (s : State) : Prop :=
  s.phase ≠ .reserved ∧ s.configRefused = !latchedAccepted s

/-- A turn the surrounding system may take: any but a RESET with a configuration that is not well
formed (70_reset_and_hazards.md R135). -/
def turnRespectful (t : Turn) : Bool :=
  match t with
  | .core => true
  | .period => true
  | .reset c => cfgWellFormed c

/-- The surrounding system presents well-formed configurations only (70_reset_and_hazards.md R135). -/
abbrev RespectfulAgenda (s : State) : Prop := ∀ t ∈ s.agenda, turnRespectful t = true

/-- The pulse width lies between the bounds (10_state.md R20). -/
abbrev InBounds (s : State) : Prop :=
  s.cfgLo.toInt ≤ s.pw.toInt ∧ s.pw.toInt ≤ s.cfgHi.toInt

/-- A safe state: legal, its latched configuration well formed, its pulse width in bounds, and only
well-formed configurations to come (00_scope.md R6, 10_state.md R23). -/
abbrev Safe (s : State) : Prop :=
  Legal s ∧ latchedAccepted s = true ∧ InBounds s ∧ RespectfulAgenda s

/-- Whether a turn is a RESET. -/
def Turn.isReset : Turn → Bool
  | .core => false
  | .period => false
  | .reset _ => true

/-- No RESET is scheduled. -/
abbrev NoResetAhead (s : State) : Prop := ∀ t ∈ s.agenda, t.isReset = false

/-- The last value written to `CMP` in a trace, if there is one. -/
def lastCmp : List Event → Option Word
  | [] => none
  | e :: rest =>
    match lastCmp rest, e with
    | some v, _ => some v
    | none, .cmp v => some v
    | none, .ack => none

/-- A trace `Ack, Cmp(v1), Ack, Cmp(v2), ...`, strictly alternating and starting with `Ack`; `waiting`
says whether the next event must be a `Cmp` (20_memory.md R38). -/
def alternates : (waiting : Bool) → List Event → Bool
  | _, [] => true
  | false, .ack :: rest => alternates true rest
  | true, .cmp _ :: rest => alternates false rest
  | false, .cmp _ :: _ => false
  | true, .ack :: _ => false

/-- Whether the last event of a trace is an `Ack`. -/
def endsInAck (l : List Event) : Bool := l.getLast? == some .ack

/-- `n` applications of `advance` to a pair (41_period_tick_driver.md R92). -/
def iterateAdvance (lo hi step : Int) (mode : Mode) : Nat → Int × Direction → Int × Direction
  | 0, r => r
  | n + 1, r =>
    let q := iterateAdvance lo hi step mode n r
    advance lo hi q.1 q.2 step mode

/-- The events of the first `n` services from a pair: `Ack, Cmp(BASE + p_1), ..., Ack, Cmp(BASE + p_n)`
(41_period_tick_driver.md R92). -/
def serviceEvents (lo hi step base : Int) (mode : Mode) (r : Int × Direction) : Nat → List Event
  | 0 => []
  | n + 1 =>
    serviceEvents lo hi step base mode r n ++
      [.ack, .cmp (BitVec.ofInt 32 (base + (iterateAdvance lo hi step mode (n + 1) r).1))]

/-- `SERVICE`: the three turns of the core that make one complete tick service (30_encoding.md R55). -/
def serviceTurns : List Turn := [.core, .core, .core]

/-- `TICK^n`: `n` period events, each serviced to completion (30_encoding.md R55). -/
def tickTurns : Nat → List Turn
  | 0 => []
  | n + 1 => .period :: (serviceTurns ++ tickTurns n)

/-- The PERIOD steps among the first `k` turns of an agenda. -/
def periodsTaken (k : Nat) (agenda : List Turn) : Nat := (agenda.take k).count .period

end Sys2Proof.Machine
end

