-- ==== Sys2Proof/Certificates/Slice0/Obligations.lean ====
section
/-!
DEFINITION. The statements for the provers. Integers are the values of the signed registers
(`toInt`) and of the unsigned `CMP` (`toNat`); a next state is given by an equation, whose `with`
says which fields change and so that no other field does (the frame; the block has no memory).

Choices of the model that several statements are written over, each a DESIGN CHOICE of the log: whose
turn it is stands in `agenda`, and the core moves when it is empty (notes/assumptions/1.md); the two
marks and the trace of events are fields of State (10.md); an operation carries the bits that its row
leaves free, and `exec` runs it on every state, whether or not the control word there selects it (12.md).
-/

open Sys2Proof Sys2Proof.Machine

/-! ### The control word -/

/-- R50: each of the 32 control words selects exactly one row of the table, the row of the operation the
decoder reads from it; the rows select 4, 4, 4, 2, 2, 8 and 8 words. -/
def Obligations.EveryControlWordSelectsOneRow : Prop :=
  opcodeRows.map (fun r => (r.name, r.mask, r.bits)) =
      [ ("WAIT", 0b11100#5, 0b00000#5), ("ACK", 0b11100#5, 0b00100#5)
      , ("ADV.STATIC", 0b11010#5, 0b01000#5), ("ADV.RISE", 0b11011#5, 0b01010#5)
      , ("ADV.FALL", 0b11011#5, 0b01011#5), ("CMPWR", 0b11000#5, 0b10000#5)
      , ("RSVD", 0b11000#5, 0b11000#5) ]
    ∧ (∀ c : BitVec 5,
        (opcodeRows.filter (fun r => (c &&& r.mask) == r.bits)).map (fun r => r.name)
          = [(decodeCtrl c).mnemonic])
    ∧ opcodeRows.map (fun r =>
        ((List.range 32).filter (fun n => (BitVec.ofNat 5 n &&& r.mask) == r.bits)).length)
          = [4, 4, 4, 2, 2, 8, 8]

/-- R46, with the codes of R47 to R49: where each piece of state stands in the control word. -/
def Obligations.ControlWordLayout : Prop :=
  ∀ s : State,
    (controlWord s).extractLsb' 3 2 =
        (match s.phase with
          | .idle => 0b00#2
          | .acked => 0b01#2
          | .advanced => 0b10#2
          | .reserved => 0b11#2)
      ∧ (controlWord s).getLsbD 2 = s.tickPending
      ∧ (controlWord s).getLsbD 1 = decide (s.cfgMode = .sweep)
      ∧ (controlWord s).getLsbD 0 = decide (s.dir = .falling)

/-- Decode and encode agree in both directions: no bit of a control word is dropped. -/
def Obligations.DecodeEncodeAgree : Prop :=
  (∀ i : Instr, decodeCtrl (encode i) = i) ∧ (∀ c : BitVec 5, encode (decodeCtrl c) = c)

/-- Words written out from R50 decode to the operations they stand for, one of each row. The last clause
is the model's own: that a number of six bits is rejected is a DESIGN CHOICE (notes/assumptions/13.md), of
which R50 says nothing. -/
def Obligations.TableWordsDecode : Prop :=
  decodeTableWord 8 0b00011 = some (.wait .sweep .falling)
    ∧ decodeTableWord 8 0b00110 = some (.ack .sweep .rising)
    ∧ decodeTableWord 8 0b01101 = some (.advStatic true .falling)
    ∧ decodeTableWord 8 0b01010 = some (.advRise false)
    ∧ decodeTableWord 8 0b01111 = some (.advFall true)
    ∧ decodeTableWord 8 0b10001 = some (.cmpwr false .static .falling)
    ∧ decodeTableWord 8 0b11000 = some (.rsvd false .static .rising)
    ∧ decodeTableWord 8 0b100000 = none

/-- A step of the core runs the decoded operation: with nothing scheduled, or with the core's turn at the
head of the agenda (which the step takes off), the step is `exec` of the operation that the control
word selects. That the core moves when nothing is scheduled is the model's DESIGN CHOICE
(notes/assumptions/1.md). The third clause, that a word placed for the next step is the one that step runs,
is about `State.withFetchWord`, a port that the hardware does not have: a DESIGN CHOICE
(notes/assumptions/14.md). -/
def Obligations.StepRunsDecodedOperation : Prop :=
  (∀ s : State, s.configRefused = false → s.agenda = [] →
      step s = exec (decodeCtrl (controlWord s)) s)
    ∧ (∀ (s : State) (rest : List Turn), s.configRefused = false → s.agenda = .core :: rest →
      step s = exec (decodeCtrl (controlWord s)) { s with agenda := rest })
    ∧ (∀ (s : State) (w : Nat) (i : Instr), s.configRefused = false →
      decodeTableWord 8 w = some i →
        step (s.withFetchWord 8 w) =
          exec i { s.withFetchWord 8 w with agenda := s.agenda }
        ∧ decodeCtrl (controlWord (s.withFetchWord 8 w)) = i)

/-! ### What each operation does, and its frame -/

/-- R81: WAIT answers the state it was given (the model gives the core a turn in which nothing changes,
notes/assumptions/5.md). -/
def Obligations.WaitChangesNothing : Prop :=
  ∀ (m : Mode) (d : Direction) (s : State), exec (.wait m d) s = .next s

/-- R82 and R33: ACK clears `TICK_PENDING`, moves the phase to `Acked`, emits `Ack`, and changes nothing
else. -/
def Obligations.AckEffect : Prop :=
  ∀ (m : Mode) (d : Direction) (s : State),
    exec (.ack m d) s =
      .next { s with tickPending := false, phase := .acked, trace := s.trace ++ [.ack] }

/-- R63: ADV.STATIC sets `PW` to `min(PW, HI)` and the phase to `Advanced`, and changes nothing else (the
direction is rewritten with its own value). For every value of every register. -/
def Obligations.AdvStaticEffect : Prop :=
  ∀ (b : Bool) (d : Direction) (s : State), ∃ t : State,
    exec (.advStatic b d) s = .next t
      ∧ t.pw.toInt = min s.pw.toInt s.cfgHi.toInt
      ∧ t = { s with pw := t.pw, phase := .advanced }

/-- R64: ADV.RISE. For every value of every register, with the tentative value formed over the
integers (notes/assumptions/9.md: outside WF5 that sum may leave `s32`). -/
def Obligations.AdvRiseEffect : Prop :=
  ∀ (b : Bool) (s : State), ∃ t : State,
    exec (.advRise b) s = .next t
      ∧ (let n := s.pw.toInt + |s.cfgStep.toInt|
         if s.cfgHi.toInt ≤ n then t.pw = s.cfgHi ∧ t.dir = .falling
         else if n ≤ s.cfgLo.toInt then t.pw = s.cfgLo ∧ t.dir = .rising
         else t.pw.toInt = n ∧ t.dir = .rising)
      ∧ t = { s with pw := t.pw, dir := t.dir, phase := .advanced }

/-- R65: ADV.FALL. For every value of every register, with the tentative value formed over the
integers (notes/assumptions/9.md). -/
def Obligations.AdvFallEffect : Prop :=
  ∀ (b : Bool) (s : State), ∃ t : State,
    exec (.advFall b) s = .next t
      ∧ (let n := s.pw.toInt - |s.cfgStep.toInt|
         if s.cfgHi.toInt ≤ n then t.pw = s.cfgHi ∧ t.dir = .falling
         else if n ≤ s.cfgLo.toInt then t.pw = s.cfgLo ∧ t.dir = .rising
         else t.pw.toInt = n ∧ t.dir = .falling)
      ∧ t = { s with pw := t.pw, dir := t.dir, phase := .advanced }

/-- R84 and R89: CMPWR writes `BASE + PW`, the exact integer sum, to `CMP`, emits the value written,
returns to `Idle`, and changes nothing else, whenever the sum is a value the spec defines. -/
def Obligations.CmpwrEffect : Prop :=
  ∀ (b : Bool) (m : Mode) (d : Direction) (s : State),
    0 ≤ s.cfgBase.toInt + s.pw.toInt → s.cfgBase.toInt + s.pw.toInt ≤ 2147483647 →
    ∃ t : State,
      exec (.cmpwr b m d) s = .next t
        ∧ (t.cmp.toNat : Int) = s.cfgBase.toInt + s.pw.toInt
        ∧ t = { s with cmp := t.cmp, phase := .idle, trace := s.trace ++ [.cmp t.cmp] }

/-- R67 and 93_implementation_defined.md U3: a compare value below 0 or above `2^31 - 1` is refused,
never wrapped (notes/assumptions/8.md). -/
def Obligations.CmpwrRefusesUndefinedSum : Prop :=
  ∀ (b : Bool) (m : Mode) (d : Direction) (s : State),
    s.cfgBase.toInt + s.pw.toInt < 0 ∨ 2147483647 < s.cfgBase.toInt + s.pw.toInt →
      exec (.cmpwr b m d) s = .refused .compareValueOutOfRange

/-- R85: RSVD is refused. -/
def Obligations.RsvdIsRefused : Prop :=
  ∀ (b : Bool) (m : Mode) (d : Direction) (s : State),
    exec (.rsvd b m d) s = .refused .reservedPhase

/-- R103: PERIOD sets `TICK_PENDING`, marks `Overrun` when the state is not quiescent, and writes nothing
else, in every state. -/
def Obligations.PeriodEffect : Prop :=
  ∀ (s : State) (rest : List Turn), s.agenda = .period :: rest →
    step s = .next { s with
      agenda := rest
      tickPending := true
      overrun := s.overrun || (decide (s.phase ≠ .idle) || s.tickPending) }

/-- R120: RESET(cfg) in every state, and it is the only step that writes a configuration register. -/
def Obligations.ResetEffect : Prop :=
  (∀ (s : State) (c : Cfg) (rest : List Turn), s.agenda = .reset c :: rest →
    ∃ r : Bool,
      step s = .next { s with
        agenda := rest
        cfgMode := c.mode, cfgStep := c.step
        cfgLo := c.lo, cfgHi := c.hi, cfgBase := c.base
        pw := c.pwInit, dir := c.dirInit, phase := .idle
        overrun := false, configRefused := r }
      ∧ (r = true ↔ ¬ (c.lo.toInt ≤ c.hi.toInt
          ∧ |c.step.toInt| ≤ c.hi.toInt - c.lo.toInt
          ∧ (-2147483648 ≤ c.lo.toInt - |c.step.toInt|
              ∧ c.hi.toInt + |c.step.toInt| ≤ 2147483647
              ∧ c.step.toInt ≠ -2147483648)
          ∧ (0 ≤ c.base.toInt + c.lo.toInt
              ∧ c.base.toInt + c.hi.toInt ≤ 2147483647))))
  ∧ ∀ s t : State, step s = .next t → (∀ c rest, s.agenda ≠ .reset c :: rest) →
      t.cfgMode = s.cfgMode ∧ t.cfgStep = s.cfgStep ∧ t.cfgLo = s.cfgLo
        ∧ t.cfgHi = s.cfgHi ∧ t.cfgBase = s.cfgBase

/-- R101: while the mark `ConfigRefused` is set the core takes no step; the model answers the core's turn
with a refusal (that PERIOD and RESET still go on is the model's choice, notes/assumptions/7.md). -/
def Obligations.RefusedConfigurationHasNoCoreSteps : Prop :=
  ∀ s : State, s.configRefused = true → headTurn s = .core →
    step s = .refused .illFormedConfiguration

/-- R22, and the model's own reset values (DESIGN CHOICES, notes/assumptions/2.md, 3.md and 4.md): the
reset state is what RESET leaves of any state, with `CMP` and `TICK_PENDING` at 0, nothing emitted and
nothing scheduled, and the phase is `Idle`. -/
def Obligations.ResetStateValues : Prop :=
  (∀ p : State,
      State.reset =
        { takeReset Config.resetCfg p with
          cmp := 0#32, tickPending := false, trace := [], agenda := [] })
    ∧ State.reset.phase = .idle
    ∧ State.reset.cfgLo = 0#32 ∧ State.reset.cfgHi = 48000#32 ∧ State.reset.cfgBase = 48000#32
    ∧ State.reset.overrun = false ∧ State.reset.configRefused = false
    ∧ step State.reset = .next State.reset

/-! ### The Waveform Generator -/

/-- R61 and R70: in Static mode the result is `(min(current, HI), direction)` whatever the step and the
lower bound are, and applying `advance` again changes nothing. -/
def Obligations.StaticAdvanceClampsAboveOnly : Prop :=
  ∀ (lo hi w step : Int) (d : Direction),
    advance lo hi w d step .static = (min w hi, d)
      ∧ (∀ lo' step' : Int,
          advance lo' hi (advance lo hi w d step .static).1 (advance lo hi w d step .static).2 step' .static
            = advance lo hi w d step .static)

/-- R62 and R66: in Sweep mode the tentative value is tested against the upper bound first, touch or
exceed, and the direction follows the saturation. -/
def Obligations.SweepAdvanceSaturates : Prop :=
  ∀ (lo hi w step : Int) (d : Direction),
    advance lo hi w d step .sweep =
      (let n := w + (if d = .rising then |step| else -|step|)
       if hi ≤ n then (hi, .falling)
       else if n ≤ lo then (lo, .rising)
       else (n, d))

/-- R69: the bound property, for one application and for any number of them. -/
def Obligations.AdvanceStaysInBounds : Prop :=
  ∀ lo hi : Int, lo ≤ hi →
    (∀ (w step : Int) (d : Direction),
        lo ≤ (advance lo hi w d step .sweep).1 ∧ (advance lo hi w d step .sweep).1 ≤ hi)
      ∧ (∀ (w step : Int) (d : Direction),
        (advance lo hi w d step .static).1 ≤ hi
          ∧ (lo ≤ (advance lo hi w d step .static).1 ↔ lo ≤ w))
      ∧ (∀ (n : Nat) (step : Int) (mode : Mode) (r : Int × Direction),
        (mode = .static → lo ≤ r.1) →
          lo ≤ (iterateAdvance lo hi step mode (n + 1) r).1
            ∧ (iterateAdvance lo hi step mode (n + 1) r).1 ≤ hi)

/-- R74: a bound is left again by the very next advance, and the direction has already turned. -/
def Obligations.NoCoastAtABound : Prop :=
  ∀ (lo hi w step : Int) (d : Direction), lo < hi → lo ≤ w → w ≤ hi → step ≠ 0 →
    let r := advance lo hi w d step .sweep
    let q := advance lo hi r.1 r.2 step .sweep
    (r.1 = hi → r.2 = .falling ∧ q.1 < hi) ∧ (r.1 = lo → r.2 = .rising ∧ lo < q.1)

/-- R53: the stored sign of `CFG_STEP` never matters. Every operation does the same on a machine whose
step is negated; a configuration is accepted exactly when the one with the step negated is, and RESET
with either leaves the same machine but for the stored step; and the most negative step, whose
magnitude is not representable, is not accepted. -/
def Obligations.StepSignNeverMatters : Prop :=
  (∀ st : Int, signedStep .rising st = |st| ∧ signedStep .falling st = -|st|)
    ∧ (∀ (i : Instr) (s : State), s.cfgStep.toInt ≠ -2147483648 →
        match exec i s with
        | .next t => exec i { s with cfgStep := -s.cfgStep } = .next { t with cfgStep := -s.cfgStep }
        | .fault f => exec i { s with cfgStep := -s.cfgStep } = .fault f
        | .refused r => exec i { s with cfgStep := -s.cfgStep } = .refused r)
    ∧ (∀ c : Cfg, c.step.toInt ≠ -2147483648 →
        cfgAccepted { c with step := -c.step } = cfgAccepted c
          ∧ ∀ s : State,
            takeReset { c with step := -c.step } s = { takeReset c s with cfgStep := -c.step })
    ∧ (∀ c : Cfg, c.step.toInt = -2147483648 → cfgAccepted c = false)

/-- R20 and R75: in Sweep mode one advance brings any pulse width between the bounds; in Static mode a
value above `HI` becomes `HI` and a value below `LO` is kept. -/
def Obligations.OneAdvanceRepairsTheRange : Prop :=
  ∀ s t : State, s.cfgLo.toInt ≤ s.cfgHi.toInt →
    (∀ b, exec (.advRise b) s = .next t → InBounds t)
      ∧ (∀ b, exec (.advFall b) s = .next t → InBounds t)
      ∧ (∀ b d, exec (.advStatic b d) s = .next t →
          (s.cfgHi.toInt ≤ s.pw.toInt → t.pw = s.cfgHi)
            ∧ (s.pw.toInt ≤ s.cfgHi.toInt → t.pw = s.pw)
            ∧ (InBounds t ↔ s.cfgLo.toInt ≤ s.pw.toInt))

/-- R71: the pulse width does not fall in a Rising advance and does not rise in a Falling one; it moves
strictly when the step is not 0 and the bound it moves toward has not been reached, and stays when the
step is 0 and the pulse width is in bounds. -/
def Obligations.SegmentsAreMonotonic : Prop :=
  ∀ s t : State, s.cfgLo.toInt ≤ s.cfgHi.toInt →
    (∀ b, exec (.advRise b) s = .next t → s.pw.toInt ≤ s.cfgHi.toInt →
        s.pw.toInt ≤ t.pw.toInt
          ∧ (s.cfgStep ≠ 0#32 → s.pw.toInt < s.cfgHi.toInt → s.pw.toInt < t.pw.toInt)
          ∧ (s.pw = s.cfgHi → t.pw = s.pw)
          ∧ (s.cfgStep = 0#32 → InBounds s → t.pw = s.pw))
      ∧ (∀ b, exec (.advFall b) s = .next t → s.cfgLo.toInt ≤ s.pw.toInt →
        t.pw.toInt ≤ s.pw.toInt
          ∧ (s.cfgStep ≠ 0#32 → s.cfgLo.toInt < s.pw.toInt → t.pw.toInt < s.pw.toInt)
          ∧ (s.pw = s.cfgLo → t.pw = s.pw)
          ∧ (s.cfgStep = 0#32 → InBounds s → t.pw = s.pw))

/-- R20 and R68: in Sweep mode, with the pulse width in bounds and a step that is not 0, the core's step
in `Acked` turns the direction exactly when the tentative value touches or exceeds the bound moved
toward, and then `PW` is that bound. -/
def Obligations.DirectionFlipsExactlyAtBounds : Prop :=
  ∀ s t : State, headTurn s = .core → s.phase = .acked → s.cfgMode = .sweep →
    InBounds s → s.cfgStep ≠ 0#32 → step s = .next t →
      (s.dir = .rising →
          ((t.dir = .falling ↔ s.cfgHi.toInt ≤ s.pw.toInt + |s.cfgStep.toInt|)
            ∧ (t.dir = .falling ↔ t.pw = s.cfgHi)))
        ∧ (s.dir = .falling →
          ((t.dir = .rising ↔ s.pw.toInt - |s.cfgStep.toInt| ≤ s.cfgLo.toInt)
            ∧ (t.dir = .rising ↔ t.pw = s.cfgLo)))
        ∧ InBounds t

/-! ### Arithmetic and configurations -/

/-- R67: under a configuration that satisfies WF1 to WF4, with the pulse width in bounds, no operation
overflows: the magnitude of the step, both tentative values and the compare value fit `s32`, and the
compare value is not negative. -/
def Obligations.NoOverflowInBounds : Prop :=
  ∀ s : State, latchedAccepted s = true → InBounds s →
    |s.cfgStep.toInt| ≤ 2147483647
      ∧ (∀ d : Direction, (toWord (tentative s.pw.toInt d s.cfgStep.toInt)).toInt
            = tentative s.pw.toInt d s.cfgStep.toInt)
      ∧ 0 ≤ compareValue s
      ∧ ((toWord (compareValue s)).toNat : Int) = compareValue s
      ∧ (toWord (compareValue s)).toInt = compareValue s

/-- R6: at the default bounds and baseline, well-formedness is `abs(STEP) <= 48000`,
`0 <= PW_INIT <= 48000` and `W >= 18`, for every width. -/
def Obligations.WellFormedAtTheDefaults : Prop :=
  ∀ (w : Nat) (st pwInit : Int),
    (wfCore w 0 48000 48000 st && wf5 0 48000 pwInit) = true ↔
      (|st| ≤ 48000 ∧ 0 ≤ pwInit ∧ pwInit ≤ 48000 ∧ 18 ≤ w)

/-! ### The tick service -/

/-- R86: the net effect of one tick service, and no other. -/
def Obligations.ServiceNetEffect : Prop :=
  ∀ (s : State) (rest : List Turn), s.configRefused = false → s.phase = .idle →
    s.tickPending = true → s.agenda = serviceTurns ++ rest →
    let r := advance s.cfgLo.toInt s.cfgHi.toInt s.pw.toInt s.dir s.cfgStep.toInt s.cfgMode
    0 ≤ s.cfgBase.toInt + r.1 → s.cfgBase.toInt + r.1 ≤ 2147483647 →
    ∃ t : State,
      run 3 s = .next t
        ∧ t.pw.toInt = r.1 ∧ t.dir = r.2
        ∧ (t.cmp.toNat : Int) = s.cfgBase.toInt + r.1
        ∧ t = { s with
            pw := t.pw, dir := t.dir, cmp := t.cmp
            tickPending := false
            trace := s.trace ++ [.ack, .cmp t.cmp]
            agenda := rest }

/-- R72: the no-op sweep. With a step of 0 in Sweep mode and the pulse width in bounds, a service keeps
`PW`, turns the direction only at a bound, and still acknowledges and writes `BASE + PW`. -/
def Obligations.ZeroStepSweepIsANoOp : Prop :=
  ∀ (s : State) (rest : List Turn), s.configRefused = false → s.phase = .idle →
    s.tickPending = true → s.agenda = serviceTurns ++ rest →
    s.cfgMode = .sweep → s.cfgStep = 0#32 → InBounds s →
    0 ≤ s.cfgBase.toInt + s.pw.toInt → s.cfgBase.toInt + s.pw.toInt ≤ 2147483647 →
    ∃ t : State,
      run 3 s = .next t
        ∧ (s.pw = s.cfgHi → t.dir = .falling)
        ∧ (s.pw = s.cfgLo → s.cfgLo.toInt < s.cfgHi.toInt → t.dir = .rising)
        ∧ (s.cfgLo.toInt < s.pw.toInt → s.pw.toInt < s.cfgHi.toInt → t.dir = s.dir)
        ∧ (t.cmp.toNat : Int) = s.cfgBase.toInt + s.pw.toInt
        ∧ t = { s with
            dir := t.dir, cmp := t.cmp, tickPending := false
            trace := s.trace ++ [.ack, .cmp t.cmp]
            agenda := rest }

/-- R24: Static mode degenerates. Once `PW` is not above `HI` and `CMP` holds `BASE + PW`, a service
changes no register but the pending bit it acknowledges: it writes the same compare value again. -/
def Obligations.StaticServiceRewritesTheSameValue : Prop :=
  ∀ (s : State) (rest : List Turn), s.configRefused = false → s.phase = .idle →
    s.tickPending = true → s.agenda = serviceTurns ++ rest →
    s.cfgMode = .static → s.pw.toInt ≤ s.cfgHi.toInt →
    (s.cmp.toNat : Int) = s.cfgBase.toInt + s.pw.toInt →
    s.cfgBase.toInt + s.pw.toInt ≤ 2147483647 →
      run 3 s = .next { s with
        tickPending := false
        trace := s.trace ++ [.ack, .cmp s.cmp]
        agenda := rest }

/-- R91: the first compare value after RESET is the one of the first advance, not of `PW_INIT`; in Static
mode with `PW_INIT <= HI` it is `BASE + PW_INIT`. -/
def Obligations.FirstServiceAfterReset : Prop :=
  ∀ (s : State) (c : Cfg) (rest : List Turn), cfgWellFormed c = true → s.tickPending = false →
    s.agenda = .reset c :: (tickTurns 1 ++ rest) →
    ∃ t : State,
      run 5 s = .next t
        ∧ (t.cmp.toNat : Int) = c.base.toInt +
            (advance c.lo.toInt c.hi.toInt c.pwInit.toInt c.dirInit c.step.toInt c.mode).1
        ∧ (c.mode = .static → (t.cmp.toNat : Int) = c.base.toInt + c.pwInit.toInt)
        ∧ t.trace = s.trace ++ [.ack, .cmp t.cmp]
        ∧ t.agenda = rest

/-- R90: a PERIOD inside a service (here between ACK and ADV) is kept pending, the service finishes
unchanged and a second one follows; a PERIOD that finds the flag already set leaves one period without
a service. Both mark `Overrun`. -/
def Obligations.PeriodInsideAService : Prop :=
  ∀ (s : State) (rest : List Turn), isQuiescent s = true → s.configRefused = false →
    latchedAccepted s = true → InBounds s →
    let it := iterateAdvance s.cfgLo.toInt s.cfgHi.toInt s.cfgStep.toInt s.cfgMode
    let ev := serviceEvents s.cfgLo.toInt s.cfgHi.toInt s.cfgStep.toInt s.cfgBase.toInt s.cfgMode
      (s.pw.toInt, s.dir)
    (s.agenda = [.period, .core, .period, .core, .core, .core, .core, .core] ++ rest →
      ∃ t : State, run 8 s = .next t ∧ (t.pw.toInt, t.dir) = it 2 (s.pw.toInt, s.dir)
        ∧ t = { s with pw := t.pw, dir := t.dir, cmp := t.cmp, overrun := true
                       trace := s.trace ++ ev 2, agenda := rest })
      ∧ (s.agenda = [.period, .period, .core, .core, .core] ++ rest →
      ∃ t : State, run 5 s = .next t ∧ (t.pw.toInt, t.dir) = it 1 (s.pw.toInt, s.dir)
        ∧ t = { s with pw := t.pw, dir := t.dir, cmp := t.cmp, overrun := true
                       trace := s.trace ++ ev 1, agenda := rest })

/-- R86: PERIOD commutes with ADV and with CMPWR, but for the mark `Overrun`. -/
def Obligations.PeriodCommutesWithinAService : Prop :=
  ∀ (s : State) (rest : List Turn), s.phase = .acked ∨ s.phase = .advanced →
    match run 2 { s with agenda := .period :: .core :: rest } with
    | .next t =>
      ∃ b : Bool, run 2 { s with agenda := .core :: .period :: rest } = .next { t with overrun := b }
    | .fault f => run 2 { s with agenda := .core :: .period :: rest } = .fault f
    | .refused r => run 2 { s with agenda := .core :: .period :: rest } = .refused r

/-- R106: PERIOD against ACK, in both orders: PERIOD first loses a period, ACK first leaves one pending,
and both mark `Overrun`. -/
def Obligations.PeriodAgainstAckBothOrders : Prop :=
  ∀ (s : State) (rest : List Turn), s.configRefused = false → s.phase = .idle →
    s.tickPending = true →
    run 2 { s with agenda := .period :: .core :: rest } = .next { s with
        phase := .acked, tickPending := false, overrun := true
        trace := s.trace ++ [.ack], agenda := rest }
      ∧ run 2 { s with agenda := .core :: .period :: rest } = .next { s with
        phase := .acked, tickPending := true, overrun := true
        trace := s.trace ++ [.ack], agenda := rest }

/-- R114: with nothing scheduled (notes/assumptions/1.md), so with no PERIOD, the core stays quiescent and keeps its whole state, for any number of turns. -/
def Obligations.QuiescentCoreKeepsItsState : Prop :=
  ∀ (k : Nat) (s : State), s.configRefused = false → isQuiescent s = true → s.agenda = [] →
    run k s = .next s

/-! ### Rules of the whole machine -/

/-- R14: the only transitions of `PHASE`, for every step of every agent. -/
def Obligations.PhaseTransitions : Prop :=
  ∀ s t : State, step s = .next t →
    t.phase =
      match headTurn s with
      | .period => s.phase
      | .reset _ => .idle
      | .core =>
        match s.phase with
        | .idle => if s.tickPending then .acked else .idle
        | .acked => .advanced
        | .advanced => .idle
        | .reserved => .reserved

/-- R105: `TICK_PENDING` is set only by PERIOD and cleared only by ACK; RESET does not clear it. -/
def Obligations.TickPendingSetByPeriodClearedByAck : Prop :=
  ∀ s t : State, step s = .next t →
    t.tickPending =
      match headTurn s with
      | .period => true
      | .reset _ => s.tickPending
      | .core => if s.phase = .idle then false else s.tickPending

/-- R102: the mark `Overrun` is set exactly by a PERIOD in a state that is not quiescent, cleared by
RESET only, and read by nothing: with another value of the mark every step does the same. -/
def Obligations.OverrunMarkIsStickyAndUnread : Prop :=
  (∀ s t : State, step s = .next t →
    t.overrun =
      match headTurn s with
      | .period => s.overrun || (decide (s.phase ≠ .idle) || s.tickPending)
      | .reset _ => false
      | .core => s.overrun)
  ∧ ∀ (s : State) (b : Bool),
      match step s with
      | .next t => ∃ b' : Bool, step { s with overrun := b } = .next { t with overrun := b' }
      | .fault f => step { s with overrun := b } = .fault f
      | .refused r => step { s with overrun := b } = .refused r

/-- R109: who writes what, for every row of its table. `PW` and `DIR` change only in an advance of the
core or by RESET, and `DIR` in Static mode by RESET only; `PHASE` by the core or by RESET; a configuration
register by RESET only; `TICK_PENDING` is set by PERIOD and cleared by the core in `Idle` (ACK), and
changes in no other way; `CMP` by CMPWR only. (The mark `ConfigRefused`, a field of the model's own,
notes/assumptions/10.md, changes by RESET only.) -/
def Obligations.EveryRegisterHasItsOwner : Prop :=
  ∀ s t : State, step s = .next t →
    (t.pw ≠ s.pw ∨ t.dir ≠ s.dir →
        (headTurn s = .core ∧ s.phase = .acked) ∨ (headTurn s).isReset = true)
      ∧ (t.dir ≠ s.dir → s.cfgMode = .sweep ∨ (headTurn s).isReset = true)
      ∧ (t.phase ≠ s.phase → headTurn s = .core ∨ (headTurn s).isReset = true)
      ∧ (t.cfgMode ≠ s.cfgMode ∨ t.cfgStep ≠ s.cfgStep ∨ t.cfgLo ≠ s.cfgLo ∨ t.cfgHi ≠ s.cfgHi
            ∨ t.cfgBase ≠ s.cfgBase ∨ t.configRefused ≠ s.configRefused →
          (headTurn s).isReset = true)
      ∧ (t.tickPending ≠ s.tickPending →
          (headTurn s = .period ∧ t.tickPending = true)
            ∨ (headTurn s = .core ∧ s.phase = .idle ∧ t.tickPending = false))
      ∧ (t.cmp ≠ s.cmp → headTurn s = .core ∧ s.phase = .advanced)

/-- R32 and R16: the core never reads `CMP`. A run with another value in `CMP` does the same, and `CMP`
itself keeps the other value until a compare value is written. -/
def Obligations.CmpIsNeverRead : Prop :=
  ∀ (k : Nat) (s : State) (v : Word),
    match run k s with
    | .next t =>
      ∃ ev : List Event, t.trace = s.trace ++ ev
        ∧ run k { s with cmp := v } = .next { t with cmp := (lastCmp ev).getD v }
        ∧ t.cmp = (lastCmp ev).getD s.cmp
    | .fault f => run k { s with cmp := v } = .fault f
    | .refused r => run k { s with cmp := v } = .refused r

/-- R121: nothing of the previous run survives a RESET but `CMP` and `TICK_PENDING` (and the record of
what was emitted): two states whatever, with the same pending bit and the same turns to come, behave
the same from a RESET on. -/
def Obligations.ResetForgetsThePast : Prop :=
  ∀ (k : Nat) (s u : State) (c : Cfg) (rest : List Turn),
    s.agenda = .reset c :: rest → u.agenda = .reset c :: rest → s.tickPending = u.tickPending →
    match run (k + 1) s with
    | .next t =>
      ∃ ev : List Event, t.trace = s.trace ++ ev
        ∧ run (k + 1) u =
            .next { t with cmp := (lastCmp ev).getD u.cmp, trace := u.trace ++ ev }
    | .fault f => run (k + 1) u = .fault f
    | .refused r => run (k + 1) u = .refused r

/-! ### Invariants -/

/-- The reset state, with the configuration and the register values the model names (DESIGN CHOICES,
notes/assumptions/2.md, 3.md and 4.md), is legal and safe. -/
def Obligations.ResetStateIsSafe : Prop := Legal State.reset ∧ Safe State.reset

/-- R14, R51 and R101: whatever the agents do, no step leads to the reserved phase, and the mark
`ConfigRefused` keeps saying what the latched configuration is. -/
def Obligations.EveryStepKeepsLegal : Prop :=
  ∀ s t : State, Legal s → step s = .next t → Legal t

/-- R20 and R23: every step keeps the state safe (the pulse width in bounds, the configuration well
formed), as long as only well-formed configurations are presented. -/
def Obligations.EveryStepKeepsSafe : Prop :=
  ∀ s t : State, Safe s → step s = .next t → Safe t

/-- R100 and R16: a safe machine runs for any number of steps, with no fault and no refusal, and every
value the core writes to the compare register lies in `[BASE + LO, BASE + HI]`. -/
def Obligations.SafeMachineNeverStops : Prop :=
  ∀ (s : State), Safe s → ∀ k : Nat,
    ∃ t : State, run k s = .next t ∧ Safe t
      ∧ (headTurn t = .core → t.phase = .advanced →
          ∃ u : State, run (k + 1) s = .next u
            ∧ (u.cmp.toNat : Int) = t.cfgBase.toInt + t.pw.toInt
            ∧ t.cfgBase.toInt + t.cfgLo.toInt ≤ (u.cmp.toNat : Int)
            ∧ (u.cmp.toNat : Int) ≤ t.cfgBase.toInt + t.cfgHi.toInt)

/-- R38: between RESETs every step keeps the trace a strict alternation `Ack, Cmp, Ack, Cmp, ...`, whose
last event is an `Ack` exactly while a service is in progress. -/
def Obligations.EveryStepKeepsTheTraceAlternating : Prop :=
  ∀ s t : State, NoResetAhead s → alternates false s.trace = true →
    endsInAck s.trace = decide (s.phase = .acked ∨ s.phase = .advanced) →
    step s = .next t →
      NoResetAhead t ∧ alternates false t.trace = true
        ∧ endsInAck t.trace = decide (t.phase = .acked ∨ t.phase = .advanced)

/-- R32 and R23: every step keeps `CMP` at the value of the latest `Cmp` event. -/
def Obligations.CmpHoldsTheLastValueWritten : Prop :=
  ∀ s t : State, (∀ v, lastCmp s.trace = some v → s.cmp = v) → step s = .next t →
    ∀ v, lastCmp t.trace = some v → t.cmp = v

/-! ### The output -/

/-- R92: the output sequence. From RESET under a well-formed configuration with every period serviced
in time, `n` periods emit `Ack, Cmp(BASE + p_1), ..., Ack, Cmp(BASE + p_n)` and leave the pair
`(p_n, d_n)`, the `n`-th iterate of `advance`; no overrun is marked. -/
def Obligations.OutputSequence : Prop :=
  ∀ (n : Nat) (s : State) (c : Cfg) (rest : List Turn), cfgWellFormed c = true →
    s.tickPending = false → s.agenda = .reset c :: (tickTurns n ++ rest) →
    ∃ t : State,
      run (1 + 4 * n) s = .next t
        ∧ t.trace = s.trace ++ serviceEvents c.lo.toInt c.hi.toInt c.step.toInt c.base.toInt c.mode
            (c.pwInit.toInt, c.dirInit) n
        ∧ (t.pw.toInt, t.dir) = iterateAdvance c.lo.toInt c.hi.toInt c.step.toInt c.mode n
            (c.pwInit.toInt, c.dirInit)
        ∧ isQuiescent t = true ∧ t.overrun = false ∧ t.agenda = rest

/-- R92 and R105: the output depends on the configuration alone. Whatever turns of the core and of the
tick source follow a RESET, in whatever order, what has been emitted is the sequence of some number
`n` of services (and the `Ack` of the one in progress); and when no overrun is marked, the number of
periods is `n`, plus one while a period is pending or in service. -/
def Obligations.OutputIndependentOfTheSchedule : Prop :=
  ∀ (k : Nat) (s t : State) (c : Cfg) (rest : List Turn), cfgWellFormed c = true →
    s.tickPending = false → s.agenda = .reset c :: rest → (∀ x ∈ rest, x.isReset = false) →
    run (k + 1) s = .next t →
    let it := iterateAdvance c.lo.toInt c.hi.toInt c.step.toInt c.mode
    let ev := serviceEvents c.lo.toInt c.hi.toInt c.step.toInt c.base.toInt c.mode
      (c.pwInit.toInt, c.dirInit)
    ∃ n : Nat,
      (match t.phase with
        | .idle =>
          t.trace = s.trace ++ ev n ∧ (t.pw.toInt, t.dir) = it n (c.pwInit.toInt, c.dirInit)
        | .acked =>
          t.trace = s.trace ++ ev n ++ [.ack]
            ∧ (t.pw.toInt, t.dir) = it n (c.pwInit.toInt, c.dirInit)
        | .advanced =>
          t.trace = s.trace ++ ev n ++ [.ack]
            ∧ (t.pw.toInt, t.dir) = it (n + 1) (c.pwInit.toInt, c.dirInit)
        | .reserved => False)
      ∧ (t.overrun = false →
          periodsTaken k rest = n + (if isQuiescent t then 0 else 1))

/-- R73: the triangle wave. In Sweep mode from `(LO, Rising)`, with `1 <= m = abs(STEP) <= HI - LO` and
`K = ceil((HI - LO) / m)`, the machine after `k` serviced periods, `k <= 2K`, is where the rule says:
rising by `m`, at `HI` after `K`, falling by `m`, and back at `(LO, Rising)` after `2K`. -/
def Obligations.TriangleWave : Prop :=
  ∀ (k : Nat) (s : State) (rest : List Turn), isQuiescent s = true → s.configRefused = false →
    latchedAccepted s = true → s.cfgMode = .sweep → s.pw = s.cfgLo → s.dir = .rising →
    s.cfgStep ≠ 0#32 → s.agenda = tickTurns k ++ rest →
    let m := |s.cfgStep.toInt|
    let kk := (s.cfgHi.toInt - s.cfgLo.toInt + m - 1) / m
    (k : Int) ≤ 2 * kk →
    ∃ t : State,
      run (4 * k) s = .next t
        ∧ ((k : Int) < kk → t.pw.toInt = s.cfgLo.toInt + k * m ∧ t.dir = .rising)
        ∧ (kk ≤ k → (k : Int) < 2 * kk → t.pw.toInt = s.cfgHi.toInt - (k - kk) * m ∧ t.dir = .falling)
        ∧ ((k : Int) = 2 * kk → t.pw = s.cfgLo ∧ t.dir = .rising)
        ∧ (0 < k → (t.cmp.toNat : Int) = s.cfgBase.toInt + t.pw.toInt)
        ∧ t = { s with pw := t.pw, dir := t.dir, cmp := t.cmp, trace := t.trace, agenda := rest }
end

