-- ==== Sys2Proof/Laws/Arithmetic.lean ====
section
/-!
SUPPORT. The integer side: the magnitude and the signed step, the value stored in a word, and what one
`advance` can answer.
-/

namespace Sys2Proof.Machine

theorem magnitude_eq_abs (v : Int) : magnitude v = |v| := by
  unfold magnitude
  split
  · exact (abs_of_nonneg (by omega)).symm
  · exact (abs_of_neg (by omega)).symm

theorem magnitude_nonneg (v : Int) : 0 ≤ magnitude v := by
  unfold magnitude; split <;> omega

theorem magnitude_eq_zero_iff (v : Int) : magnitude v = 0 ↔ v = 0 := by
  unfold magnitude; split <;> omega

theorem magnitude_neg (v : Int) : magnitude (-v) = magnitude v := by
  unfold magnitude; split <;> split <;> omega

@[simp] theorem tentative_rising (c st : Int) : tentative c .rising st = c + magnitude st := rfl

@[simp] theorem tentative_falling (c st : Int) : tentative c .falling st = c - magnitude st := rfl

theorem word_toInt_range (w : Word) : -2147483648 ≤ w.toInt ∧ w.toInt ≤ 2147483647 := by
  have h1 := BitVec.le_toInt w
  have h2 := BitVec.toInt_lt (x := w)
  norm_num at h1 h2
  omega

theorem word_toInt_eq_zero_iff (w : Word) : w.toInt = 0 ↔ w = 0#32 := by
  rw [← BitVec.toInt_inj]; simp

/-- Negation of a word is negation of its value, but for the most negative word. -/
theorem word_neg_toInt {w : Word} (h : w.toInt ≠ -2147483648) : (-w).toInt = -w.toInt := by
  have hr := word_toInt_range w
  rw [BitVec.toInt_neg]
  exact Int.bmod_eq_of_le (by norm_num; omega) (by norm_num; omega)

/-- The magnitude of a word's value does not depend on its sign (30_encoding.md R53). -/
theorem magnitude_word_neg {w : Word} (h : w.toInt ≠ -2147483648) :
    magnitude (-w).toInt = magnitude w.toInt := by
  rw [word_neg_toInt h, magnitude_neg]

/-- An integer of `s32` survives the way into a register and back. -/
theorem toWord_toInt {v : Int} (h1 : -2147483648 ≤ v) (h2 : v ≤ 2147483647) :
    (toWord v).toInt = v := by
  unfold toWord
  rw [BitVec.toInt_ofInt]
  exact Int.bmod_eq_of_le (by norm_num; omega) (by norm_num; omega)

/-- A non-negative integer of `s32` is the unsigned value of its word. -/
theorem toWord_toNat {v : Int} (h1 : 0 ≤ v) (h2 : v ≤ 2147483647) :
    ((toWord v).toNat : Int) = v := by
  unfold toWord
  rw [BitVec.toNat_ofInt]
  have : v % ((2 ^ 32 : Nat) : Int) = v := Int.emod_eq_of_lt h1 (by norm_num; omega)
  rw [this]; omega

@[simp] theorem toWord_of_toInt (w : Word) : toWord w.toInt = w := by
  unfold toWord; simp

/-- The static case of `advance` (40_waveform_generator.md R61). -/
@[simp] theorem advance_static (lo hi c st : Int) (d : Direction) :
    advance lo hi c d st .static = (min c hi, d) := rfl

/-- The three cases of a Sweep-mode `advance` (40_waveform_generator.md R66). -/
theorem advance_sweep_cases (lo hi c st : Int) (d : Direction) :
    (hi ≤ tentative c d st ∧ advance lo hi c d st .sweep = (hi, .falling))
      ∨ (tentative c d st < hi ∧ tentative c d st ≤ lo
          ∧ advance lo hi c d st .sweep = (lo, .rising))
      ∨ (tentative c d st < hi ∧ lo < tentative c d st
          ∧ advance lo hi c d st .sweep = (tentative c d st, d)) := by
  by_cases h1 : hi ≤ tentative c d st
  · left; simp [advance, nextValue, nextDirection, satHi, h1]
  · right
    by_cases h2 : tentative c d st ≤ lo
    · left; simp [advance, nextValue, nextDirection, satHi, satLo, h1, h2]; omega
    · right; simp [advance, nextValue, nextDirection, satHi, satLo, h1, h2]; omega

/-- What `advance` answers for the values of three words fits a word, whatever they are. -/
theorem advance_fits (lo hi c : Word) (st : Int) (d : Direction) (m : Mode) :
    (toWord (advance lo.toInt hi.toInt c.toInt d st m).1).toInt
      = (advance lo.toInt hi.toInt c.toInt d st m).1 := by
  have hlo := word_toInt_range lo
  have hhi := word_toInt_range hi
  have hc := word_toInt_range c
  cases m with
  | static => rw [advance_static]; exact toWord_toInt (by dsimp only; omega) (by dsimp only; omega)
  | sweep =>
    obtain ⟨_, h⟩ | ⟨_, _, h⟩ | ⟨_, _, h⟩ := advance_sweep_cases lo.toInt hi.toInt c.toInt st d <;>
      rw [h] <;> exact toWord_toInt (by dsimp only; omega) (by dsimp only; omega)

/-- A Sweep-mode `advance` stays between the bounds. -/
theorem advance_sweep_bounds {lo hi : Int} (h : lo ≤ hi) (c st : Int) (d : Direction) :
    lo ≤ (advance lo hi c d st .sweep).1 ∧ (advance lo hi c d st .sweep).1 ≤ hi := by
  obtain ⟨_, e⟩ | ⟨_, _, e⟩ | ⟨_, _, e⟩ := advance_sweep_cases lo hi c st d <;>
    rw [e] <;> dsimp only <;> omega

/-- WF1 to WF4 at the machine's width, read off as inequalities (00_scope.md R6). -/
theorem wfCore_word_iff (lo hi base st : Int) :
    wfCore wordWidth lo hi base st = true ↔
      lo ≤ hi ∧ magnitude st ≤ hi - lo
        ∧ (-2147483648 ≤ lo - magnitude st ∧ hi + magnitude st ≤ 2147483647 ∧ st ≠ -2147483648)
        ∧ (0 ≤ base + lo ∧ base + hi ≤ 2147483647) := by
  simp only [wfCore, wf1, wf2, wf3, wf4, wordWidth, Bool.and_eq_true, decide_eq_true_eq]
  norm_num
  tauto

end Sys2Proof.Machine
end

