-- ==== Sys2Proof/Laws/PerInstr.lean ====
section
/-!
SUPPORT. A statement for all operations, one lemma per constructor: the control word of an operation
selects the row of the decode table that carries the operation's name (30_encoding.md R50).
-/

namespace Sys2Proof.Laws

/-- The encoding of the operation selects the row of its own name. -/
def TableRow.Statement (i : Instr) : Prop :=
  ∃ r ∈ opcodeRows, r.name = i.mnemonic ∧ r.selects (encode i) = true

theorem TableRow.wait (m : Mode) (d : Direction) : TableRow.Statement (.wait m d) :=
  ⟨⟨"WAIT", 0b11100#5, 0b00000#5⟩, by simp [opcodeRows], rfl, by cases m <;> cases d <;> decide⟩

theorem TableRow.ack (m : Mode) (d : Direction) : TableRow.Statement (.ack m d) :=
  ⟨⟨"ACK", 0b11100#5, 0b00100#5⟩, by simp [opcodeRows], rfl, by cases m <;> cases d <;> decide⟩

theorem TableRow.advStatic (t : Bool) (d : Direction) : TableRow.Statement (.advStatic t d) :=
  ⟨⟨"ADV.STATIC", 0b11010#5, 0b01000#5⟩, by simp [opcodeRows], rfl, by cases t <;> cases d <;> decide⟩

theorem TableRow.advRise (t : Bool) : TableRow.Statement (.advRise t) :=
  ⟨⟨"ADV.RISE", 0b11011#5, 0b01010#5⟩, by simp [opcodeRows], rfl, by cases t <;> decide⟩

theorem TableRow.advFall (t : Bool) : TableRow.Statement (.advFall t) :=
  ⟨⟨"ADV.FALL", 0b11011#5, 0b01011#5⟩, by simp [opcodeRows], rfl, by cases t <;> decide⟩

theorem TableRow.cmpwr (t : Bool) (m : Mode) (d : Direction) : TableRow.Statement (.cmpwr t m d) :=
  ⟨⟨"CMPWR", 0b11000#5, 0b10000#5⟩, by simp [opcodeRows], rfl,
    by cases t <;> cases m <;> cases d <;> decide⟩

theorem TableRow.rsvd (t : Bool) (m : Mode) (d : Direction) : TableRow.Statement (.rsvd t m d) :=
  ⟨⟨"RSVD", 0b11000#5, 0b11000#5⟩, by simp [opcodeRows], rfl,
    by cases t <;> cases m <;> cases d <;> decide⟩

end Sys2Proof.Laws
end

