-- ==== Sys2Proof/Laws/State.lean ====
section
/-!
SUPPORT. One lemma per field per update of the state, each true by `rfl`, so that no later proof unfolds a
record update.
-/

namespace Sys2Proof.Machine

@[simp] theorem emit_pw (e : Event) (s : State) : (emit e s).pw = s.pw := rfl
@[simp] theorem emit_dir (e : Event) (s : State) : (emit e s).dir = s.dir := rfl
@[simp] theorem emit_phase (e : Event) (s : State) : (emit e s).phase = s.phase := rfl
@[simp] theorem emit_cfgMode (e : Event) (s : State) : (emit e s).cfgMode = s.cfgMode := rfl
@[simp] theorem emit_cfgStep (e : Event) (s : State) : (emit e s).cfgStep = s.cfgStep := rfl
@[simp] theorem emit_cfgLo (e : Event) (s : State) : (emit e s).cfgLo = s.cfgLo := rfl
@[simp] theorem emit_cfgHi (e : Event) (s : State) : (emit e s).cfgHi = s.cfgHi := rfl
@[simp] theorem emit_cfgBase (e : Event) (s : State) : (emit e s).cfgBase = s.cfgBase := rfl
@[simp] theorem emit_cmp (e : Event) (s : State) : (emit e s).cmp = s.cmp := rfl
@[simp] theorem emit_tickPending (e : Event) (s : State) : (emit e s).tickPending = s.tickPending := rfl
@[simp] theorem emit_overrun (e : Event) (s : State) : (emit e s).overrun = s.overrun := rfl
@[simp] theorem emit_configRefused (e : Event) (s : State) : (emit e s).configRefused = s.configRefused := rfl
@[simp] theorem emit_trace (e : Event) (s : State) : (emit e s).trace = s.trace ++ [e] := rfl
@[simp] theorem emit_agenda (e : Event) (s : State) : (emit e s).agenda = s.agenda := rfl

@[simp] theorem tickAck_pw (s : State) : (tickAck s).pw = s.pw := rfl
@[simp] theorem tickAck_dir (s : State) : (tickAck s).dir = s.dir := rfl
@[simp] theorem tickAck_phase (s : State) : (tickAck s).phase = s.phase := rfl
@[simp] theorem tickAck_cfgMode (s : State) : (tickAck s).cfgMode = s.cfgMode := rfl
@[simp] theorem tickAck_cfgStep (s : State) : (tickAck s).cfgStep = s.cfgStep := rfl
@[simp] theorem tickAck_cfgLo (s : State) : (tickAck s).cfgLo = s.cfgLo := rfl
@[simp] theorem tickAck_cfgHi (s : State) : (tickAck s).cfgHi = s.cfgHi := rfl
@[simp] theorem tickAck_cfgBase (s : State) : (tickAck s).cfgBase = s.cfgBase := rfl
@[simp] theorem tickAck_cmp (s : State) : (tickAck s).cmp = s.cmp := rfl
@[simp] theorem tickAck_tickPending (s : State) : (tickAck s).tickPending = false := rfl
@[simp] theorem tickAck_overrun (s : State) : (tickAck s).overrun = s.overrun := rfl
@[simp] theorem tickAck_configRefused (s : State) : (tickAck s).configRefused = s.configRefused := rfl
@[simp] theorem tickAck_trace (s : State) : (tickAck s).trace = s.trace ++ [.ack] := rfl
@[simp] theorem tickAck_agenda (s : State) : (tickAck s).agenda = s.agenda := rfl

@[simp] theorem cmpWrite_pw (v : Word) (s : State) : (cmpWrite v s).pw = s.pw := rfl
@[simp] theorem cmpWrite_dir (v : Word) (s : State) : (cmpWrite v s).dir = s.dir := rfl
@[simp] theorem cmpWrite_phase (v : Word) (s : State) : (cmpWrite v s).phase = s.phase := rfl
@[simp] theorem cmpWrite_cfgMode (v : Word) (s : State) : (cmpWrite v s).cfgMode = s.cfgMode := rfl
@[simp] theorem cmpWrite_cfgStep (v : Word) (s : State) : (cmpWrite v s).cfgStep = s.cfgStep := rfl
@[simp] theorem cmpWrite_cfgLo (v : Word) (s : State) : (cmpWrite v s).cfgLo = s.cfgLo := rfl
@[simp] theorem cmpWrite_cfgHi (v : Word) (s : State) : (cmpWrite v s).cfgHi = s.cfgHi := rfl
@[simp] theorem cmpWrite_cfgBase (v : Word) (s : State) : (cmpWrite v s).cfgBase = s.cfgBase := rfl
@[simp] theorem cmpWrite_cmp (v : Word) (s : State) : (cmpWrite v s).cmp = v := rfl
@[simp] theorem cmpWrite_tickPending (v : Word) (s : State) : (cmpWrite v s).tickPending = s.tickPending := rfl
@[simp] theorem cmpWrite_overrun (v : Word) (s : State) : (cmpWrite v s).overrun = s.overrun := rfl
@[simp] theorem cmpWrite_configRefused (v : Word) (s : State) : (cmpWrite v s).configRefused = s.configRefused := rfl
@[simp] theorem cmpWrite_trace (v : Word) (s : State) : (cmpWrite v s).trace = s.trace ++ [.cmp v] := rfl
@[simp] theorem cmpWrite_agenda (v : Word) (s : State) : (cmpWrite v s).agenda = s.agenda := rfl

@[simp] theorem setPair_pw (n : Int) (e : Direction) (s : State) : (setPair n e s).pw = toWord n := rfl
@[simp] theorem setPair_dir (n : Int) (e : Direction) (s : State) : (setPair n e s).dir = e := rfl
@[simp] theorem setPair_phase (n : Int) (e : Direction) (s : State) : (setPair n e s).phase = s.phase := rfl
@[simp] theorem setPair_cfgMode (n : Int) (e : Direction) (s : State) : (setPair n e s).cfgMode = s.cfgMode := rfl
@[simp] theorem setPair_cfgStep (n : Int) (e : Direction) (s : State) : (setPair n e s).cfgStep = s.cfgStep := rfl
@[simp] theorem setPair_cfgLo (n : Int) (e : Direction) (s : State) : (setPair n e s).cfgLo = s.cfgLo := rfl
@[simp] theorem setPair_cfgHi (n : Int) (e : Direction) (s : State) : (setPair n e s).cfgHi = s.cfgHi := rfl
@[simp] theorem setPair_cfgBase (n : Int) (e : Direction) (s : State) : (setPair n e s).cfgBase = s.cfgBase := rfl
@[simp] theorem setPair_cmp (n : Int) (e : Direction) (s : State) : (setPair n e s).cmp = s.cmp := rfl
@[simp] theorem setPair_tickPending (n : Int) (e : Direction) (s : State) : (setPair n e s).tickPending = s.tickPending := rfl
@[simp] theorem setPair_overrun (n : Int) (e : Direction) (s : State) : (setPair n e s).overrun = s.overrun := rfl
@[simp] theorem setPair_configRefused (n : Int) (e : Direction) (s : State) : (setPair n e s).configRefused = s.configRefused := rfl
@[simp] theorem setPair_trace (n : Int) (e : Direction) (s : State) : (setPair n e s).trace = s.trace := rfl
@[simp] theorem setPair_agenda (n : Int) (e : Direction) (s : State) : (setPair n e s).agenda = s.agenda := rfl

@[simp] theorem setPhase_pw (p : Phase) (s : State) : (setPhase p s).pw = s.pw := rfl
@[simp] theorem setPhase_dir (p : Phase) (s : State) : (setPhase p s).dir = s.dir := rfl
@[simp] theorem setPhase_phase (p : Phase) (s : State) : (setPhase p s).phase = p := rfl
@[simp] theorem setPhase_cfgMode (p : Phase) (s : State) : (setPhase p s).cfgMode = s.cfgMode := rfl
@[simp] theorem setPhase_cfgStep (p : Phase) (s : State) : (setPhase p s).cfgStep = s.cfgStep := rfl
@[simp] theorem setPhase_cfgLo (p : Phase) (s : State) : (setPhase p s).cfgLo = s.cfgLo := rfl
@[simp] theorem setPhase_cfgHi (p : Phase) (s : State) : (setPhase p s).cfgHi = s.cfgHi := rfl
@[simp] theorem setPhase_cfgBase (p : Phase) (s : State) : (setPhase p s).cfgBase = s.cfgBase := rfl
@[simp] theorem setPhase_cmp (p : Phase) (s : State) : (setPhase p s).cmp = s.cmp := rfl
@[simp] theorem setPhase_tickPending (p : Phase) (s : State) : (setPhase p s).tickPending = s.tickPending := rfl
@[simp] theorem setPhase_overrun (p : Phase) (s : State) : (setPhase p s).overrun = s.overrun := rfl
@[simp] theorem setPhase_configRefused (p : Phase) (s : State) : (setPhase p s).configRefused = s.configRefused := rfl
@[simp] theorem setPhase_trace (p : Phase) (s : State) : (setPhase p s).trace = s.trace := rfl
@[simp] theorem setPhase_agenda (p : Phase) (s : State) : (setPhase p s).agenda = s.agenda := rfl

@[simp] theorem enterService_pw (s : State) : (enterService s).pw = s.pw := rfl
@[simp] theorem enterService_dir (s : State) : (enterService s).dir = s.dir := rfl
@[simp] theorem enterService_phase (s : State) : (enterService s).phase = .acked := rfl
@[simp] theorem enterService_cfgMode (s : State) : (enterService s).cfgMode = s.cfgMode := rfl
@[simp] theorem enterService_cfgStep (s : State) : (enterService s).cfgStep = s.cfgStep := rfl
@[simp] theorem enterService_cfgLo (s : State) : (enterService s).cfgLo = s.cfgLo := rfl
@[simp] theorem enterService_cfgHi (s : State) : (enterService s).cfgHi = s.cfgHi := rfl
@[simp] theorem enterService_cfgBase (s : State) : (enterService s).cfgBase = s.cfgBase := rfl
@[simp] theorem enterService_cmp (s : State) : (enterService s).cmp = s.cmp := rfl
@[simp] theorem enterService_tickPending (s : State) : (enterService s).tickPending = false := rfl
@[simp] theorem enterService_overrun (s : State) : (enterService s).overrun = s.overrun := rfl
@[simp] theorem enterService_configRefused (s : State) : (enterService s).configRefused = s.configRefused := rfl
@[simp] theorem enterService_trace (s : State) : (enterService s).trace = s.trace ++ [.ack] := rfl
@[simp] theorem enterService_agenda (s : State) : (enterService s).agenda = s.agenda := rfl

@[simp] theorem leaveService_pw (s : State) : (leaveService s).pw = s.pw := rfl
@[simp] theorem leaveService_dir (s : State) : (leaveService s).dir = s.dir := rfl
@[simp] theorem leaveService_phase (s : State) : (leaveService s).phase = .idle := rfl
@[simp] theorem leaveService_cfgMode (s : State) : (leaveService s).cfgMode = s.cfgMode := rfl
@[simp] theorem leaveService_cfgStep (s : State) : (leaveService s).cfgStep = s.cfgStep := rfl
@[simp] theorem leaveService_cfgLo (s : State) : (leaveService s).cfgLo = s.cfgLo := rfl
@[simp] theorem leaveService_cfgHi (s : State) : (leaveService s).cfgHi = s.cfgHi := rfl
@[simp] theorem leaveService_cfgBase (s : State) : (leaveService s).cfgBase = s.cfgBase := rfl
@[simp] theorem leaveService_cmp (s : State) : (leaveService s).cmp = s.cmp := rfl
@[simp] theorem leaveService_tickPending (s : State) : (leaveService s).tickPending = s.tickPending := rfl
@[simp] theorem leaveService_overrun (s : State) : (leaveService s).overrun = s.overrun := rfl
@[simp] theorem leaveService_configRefused (s : State) : (leaveService s).configRefused = s.configRefused := rfl
@[simp] theorem leaveService_trace (s : State) : (leaveService s).trace = s.trace := rfl
@[simp] theorem leaveService_agenda (s : State) : (leaveService s).agenda = s.agenda := rfl

@[simp] theorem withControlWord_pw (c : BitVec 5) (s : State) : (withControlWord c s).pw = s.pw := rfl
@[simp] theorem withControlWord_dir (c : BitVec 5) (s : State) : (withControlWord c s).dir = ctrlDir c := rfl
@[simp] theorem withControlWord_phase (c : BitVec 5) (s : State) : (withControlWord c s).phase = ctrlPhase c := rfl
@[simp] theorem withControlWord_cfgMode (c : BitVec 5) (s : State) : (withControlWord c s).cfgMode = ctrlMode c := rfl
@[simp] theorem withControlWord_cfgStep (c : BitVec 5) (s : State) : (withControlWord c s).cfgStep = s.cfgStep := rfl
@[simp] theorem withControlWord_cfgLo (c : BitVec 5) (s : State) : (withControlWord c s).cfgLo = s.cfgLo := rfl
@[simp] theorem withControlWord_cfgHi (c : BitVec 5) (s : State) : (withControlWord c s).cfgHi = s.cfgHi := rfl
@[simp] theorem withControlWord_cfgBase (c : BitVec 5) (s : State) : (withControlWord c s).cfgBase = s.cfgBase := rfl
@[simp] theorem withControlWord_cmp (c : BitVec 5) (s : State) : (withControlWord c s).cmp = s.cmp := rfl
@[simp] theorem withControlWord_tickPending (c : BitVec 5) (s : State) : (withControlWord c s).tickPending = ctrlTick c := rfl
@[simp] theorem withControlWord_overrun (c : BitVec 5) (s : State) : (withControlWord c s).overrun = s.overrun := rfl
@[simp] theorem withControlWord_configRefused (c : BitVec 5) (s : State) : (withControlWord c s).configRefused = s.configRefused := rfl
@[simp] theorem withControlWord_trace (c : BitVec 5) (s : State) : (withControlWord c s).trace = s.trace := rfl
@[simp] theorem withControlWord_agenda (c : BitVec 5) (s : State) : (withControlWord c s).agenda = s.agenda := rfl

@[simp] theorem takePeriod_pw (s : State) : (takePeriod s).pw = s.pw := rfl
@[simp] theorem takePeriod_dir (s : State) : (takePeriod s).dir = s.dir := rfl
@[simp] theorem takePeriod_phase (s : State) : (takePeriod s).phase = s.phase := rfl
@[simp] theorem takePeriod_cfgMode (s : State) : (takePeriod s).cfgMode = s.cfgMode := rfl
@[simp] theorem takePeriod_cfgStep (s : State) : (takePeriod s).cfgStep = s.cfgStep := rfl
@[simp] theorem takePeriod_cfgLo (s : State) : (takePeriod s).cfgLo = s.cfgLo := rfl
@[simp] theorem takePeriod_cfgHi (s : State) : (takePeriod s).cfgHi = s.cfgHi := rfl
@[simp] theorem takePeriod_cfgBase (s : State) : (takePeriod s).cfgBase = s.cfgBase := rfl
@[simp] theorem takePeriod_cmp (s : State) : (takePeriod s).cmp = s.cmp := rfl
@[simp] theorem takePeriod_tickPending (s : State) : (takePeriod s).tickPending = true := rfl
@[simp] theorem takePeriod_overrun (s : State) : (takePeriod s).overrun = (s.overrun || !isQuiescent s) := rfl
@[simp] theorem takePeriod_configRefused (s : State) : (takePeriod s).configRefused = s.configRefused := rfl
@[simp] theorem takePeriod_trace (s : State) : (takePeriod s).trace = s.trace := rfl
@[simp] theorem takePeriod_agenda (s : State) : (takePeriod s).agenda = s.agenda := rfl

@[simp] theorem takeReset_pw (c : Cfg) (s : State) : (takeReset c s).pw = c.pwInit := rfl
@[simp] theorem takeReset_dir (c : Cfg) (s : State) : (takeReset c s).dir = c.dirInit := rfl
@[simp] theorem takeReset_phase (c : Cfg) (s : State) : (takeReset c s).phase = .idle := rfl
@[simp] theorem takeReset_cfgMode (c : Cfg) (s : State) : (takeReset c s).cfgMode = c.mode := rfl
@[simp] theorem takeReset_cfgStep (c : Cfg) (s : State) : (takeReset c s).cfgStep = c.step := rfl
@[simp] theorem takeReset_cfgLo (c : Cfg) (s : State) : (takeReset c s).cfgLo = c.lo := rfl
@[simp] theorem takeReset_cfgHi (c : Cfg) (s : State) : (takeReset c s).cfgHi = c.hi := rfl
@[simp] theorem takeReset_cfgBase (c : Cfg) (s : State) : (takeReset c s).cfgBase = c.base := rfl
@[simp] theorem takeReset_cmp (c : Cfg) (s : State) : (takeReset c s).cmp = s.cmp := rfl
@[simp] theorem takeReset_tickPending (c : Cfg) (s : State) : (takeReset c s).tickPending = s.tickPending := rfl
@[simp] theorem takeReset_overrun (c : Cfg) (s : State) : (takeReset c s).overrun = false := rfl
@[simp] theorem takeReset_configRefused (c : Cfg) (s : State) : (takeReset c s).configRefused = !cfgAccepted c := rfl
@[simp] theorem takeReset_trace (c : Cfg) (s : State) : (takeReset c s).trace = s.trace := rfl
@[simp] theorem takeReset_agenda (c : Cfg) (s : State) : (takeReset c s).agenda = s.agenda := rfl

@[simp] theorem popTurn_pw (s : State) : (popTurn s).pw = s.pw := rfl
@[simp] theorem popTurn_dir (s : State) : (popTurn s).dir = s.dir := rfl
@[simp] theorem popTurn_phase (s : State) : (popTurn s).phase = s.phase := rfl
@[simp] theorem popTurn_cfgMode (s : State) : (popTurn s).cfgMode = s.cfgMode := rfl
@[simp] theorem popTurn_cfgStep (s : State) : (popTurn s).cfgStep = s.cfgStep := rfl
@[simp] theorem popTurn_cfgLo (s : State) : (popTurn s).cfgLo = s.cfgLo := rfl
@[simp] theorem popTurn_cfgHi (s : State) : (popTurn s).cfgHi = s.cfgHi := rfl
@[simp] theorem popTurn_cfgBase (s : State) : (popTurn s).cfgBase = s.cfgBase := rfl
@[simp] theorem popTurn_cmp (s : State) : (popTurn s).cmp = s.cmp := rfl
@[simp] theorem popTurn_tickPending (s : State) : (popTurn s).tickPending = s.tickPending := rfl
@[simp] theorem popTurn_overrun (s : State) : (popTurn s).overrun = s.overrun := rfl
@[simp] theorem popTurn_configRefused (s : State) : (popTurn s).configRefused = s.configRefused := rfl
@[simp] theorem popTurn_trace (s : State) : (popTurn s).trace = s.trace := rfl
@[simp] theorem popTurn_agenda (s : State) : (popTurn s).agenda = s.agenda.tail := rfl

end Sys2Proof.Machine
end

