-- ==== Sys2Proof/Laws/Step.lean ====
section
/-!
SUPPORT. What the shared operations can do, said once: the operation a control word selects, the turn
of the core by phase, the step by whose turn it is, and the inversion of each.
-/

namespace Sys2Proof.Machine

@[simp] theorem ctrlPhase_pack (p : Phase) (t : Bool) (m : Mode) (d : Direction) :
    ctrlPhase (packControlWord p t m d) = p := by
  cases p <;> cases t <;> cases m <;> cases d <;> rfl

@[simp] theorem ctrlTick_pack (p : Phase) (t : Bool) (m : Mode) (d : Direction) :
    ctrlTick (packControlWord p t m d) = t := by
  cases p <;> cases t <;> cases m <;> cases d <;> rfl

@[simp] theorem ctrlMode_pack (p : Phase) (t : Bool) (m : Mode) (d : Direction) :
    ctrlMode (packControlWord p t m d) = m := by
  cases p <;> cases t <;> cases m <;> cases d <;> rfl

@[simp] theorem ctrlDir_pack (p : Phase) (t : Bool) (m : Mode) (d : Direction) :
    ctrlDir (packControlWord p t m d) = d := by
  cases p <;> cases t <;> cases m <;> cases d <;> rfl

/-- The operation decoded from a state's control word is the one its four fields select. -/
theorem decode_controlWord (s : State) :
    decodeCtrl (controlWord s) = selectOperation s.phase s.tickPending s.cfgMode s.dir := by
  simp [decodeCtrl, controlWord]

/-- Setting the four fields of a control word sets the control word. -/
theorem controlWord_withControlWord (c : BitVec 5) (s : State) :
    controlWord (withControlWord c s) = c := by
  simp only [controlWord, withControlWord_phase, withControlWord_tickPending,
    withControlWord_cfgMode, withControlWord_dir]
  revert c
  decide

/-- The turn of the core, by phase; each ADV is `applyAdvance` for the registers' own mode and
direction (41_period_tick_driver.md R83). -/
theorem coreTurn_eq (s : State) :
    coreTurn s =
      if s.configRefused then .refused .illFormedConfiguration
      else match s.phase with
        | .idle => if s.tickPending then .next (enterService s) else .next s
        | .acked => .next (applyAdvance s.dir s.cfgMode s)
        | .advanced => execCmpwr s
        | .reserved => .refused .reservedPhase := by
  unfold coreTurn
  rw [decode_controlWord]
  obtain ⟨pw, dir, phase, mode, st, lo, hi, base, cmp, tick, ov, cr, tr, ag⟩ := s
  cases phase <;> cases tick <;> cases mode <;> cases dir <;> rfl

/-- The compare values the spec defines (93_implementation_defined.md U3). -/
theorem compareValueFits_iff (v : Int) :
    compareValueFits v = true ↔ 0 ≤ v ∧ v ≤ 2147483647 := by
  simp [compareValueFits]

theorem execCmpwr_refused {s : State} (h : ¬ (0 ≤ compareValue s ∧ compareValue s ≤ 2147483647)) :
    execCmpwr s = .refused .compareValueOutOfRange := by
  unfold execCmpwr
  rw [if_neg (fun hf => h ((compareValueFits_iff _).mp hf))]

/-- What a CMPWR that answers a next state has done. -/
theorem execCmpwr_next {s t : State} (h : execCmpwr s = .next t) :
    0 ≤ compareValue s ∧ compareValue s ≤ 2147483647
      ∧ t = leaveService (cmpWrite (toWord (compareValue s)) s) := by
  unfold execCmpwr at h
  split at h
  · rename_i hf
    rw [compareValueFits_iff] at hf
    exact ⟨hf.1, hf.2, by injection h with h; exact h.symm⟩
  · cases h

theorem execCmpwr_of_fits {s : State} (h1 : 0 ≤ compareValue s) (h2 : compareValue s ≤ 2147483647) :
    execCmpwr s = .next (leaveService (cmpWrite (toWord (compareValue s)) s)) := by
  unfold execCmpwr
  rw [if_pos ((compareValueFits_iff _).mpr ⟨h1, h2⟩)]

/-- What a turn of the core that answers a next state has done. -/
theorem coreTurn_next {s t : State} (h : coreTurn s = .next t) :
    s.configRefused = false ∧
      ((s.phase = .idle ∧ s.tickPending = false ∧ t = s)
        ∨ (s.phase = .idle ∧ s.tickPending = true ∧ t = enterService s)
        ∨ (s.phase = .acked ∧ t = applyAdvance s.dir s.cfgMode s)
        ∨ (s.phase = .advanced ∧ 0 ≤ compareValue s ∧ compareValue s ≤ 2147483647
            ∧ t = leaveService (cmpWrite (toWord (compareValue s)) s))) := by
  rw [coreTurn_eq] at h
  split at h
  · cases h
  · rename_i hr
    refine ⟨by simpa using hr, ?_⟩
    split at h
    · rename_i hp
      split at h
      · rename_i ht
        injection h with h
        exact .inr (.inl ⟨hp, ht, h.symm⟩)
      · rename_i ht
        injection h with h
        exact .inl ⟨hp, by simpa using ht, h.symm⟩
    · rename_i hp
      injection h with h
      exact .inr (.inr (.inl ⟨hp, h.symm⟩))
    · rename_i hp
      exact .inr (.inr (.inr ⟨hp, execCmpwr_next h⟩))
    · cases h

@[simp] theorem phaseIsIdle_iff (p : Phase) : phaseIsIdle p = true ↔ p = .idle := by
  cases p <;> decide

@[simp] theorem phaseIsIdle_idle : phaseIsIdle .idle = true := rfl

@[simp] theorem phaseIsIdle_acked : phaseIsIdle .acked = false := rfl

@[simp] theorem phaseIsIdle_advanced : phaseIsIdle .advanced = false := rfl

@[simp] theorem phaseIsIdle_reserved : phaseIsIdle .reserved = false := rfl

theorem isQuiescent_iff (s : State) :
    isQuiescent s = true ↔ s.phase = .idle ∧ s.tickPending = false := by
  simp [isQuiescent]

theorem not_isQuiescent (s : State) :
    (!isQuiescent s) = (decide (s.phase ≠ .idle) || s.tickPending) := by
  have h : phaseIsIdle s.phase = decide (s.phase = .idle) := by
    rw [Bool.eq_iff_iff]; simp
  simp [isQuiescent, h]

@[simp] theorem headTurn_nil {s : State} (h : s.agenda = []) : headTurn s = .core := by
  simp [headTurn, h]

@[simp] theorem headTurn_cons {s : State} {x : Turn} {rest : List Turn} (h : s.agenda = x :: rest) :
    headTurn s = x := by
  simp [headTurn, h]

theorem step_of_head {s : State} {x : Turn} (h : headTurn s = x) : step s = takeTurn x (popTurn s) := by
  simp [step, h]

/-- What a step that answers a next state has done, by whose turn it was. -/
theorem step_next {s t : State} (h : step s = .next t) :
    (headTurn s = .core ∧ coreTurn (popTurn s) = .next t)
      ∨ (headTurn s = .period ∧ t = takePeriod (popTurn s))
      ∨ (∃ c, headTurn s = .reset c ∧ t = takeReset c (popTurn s)) := by
  unfold step at h
  cases hh : headTurn s with
  | core => rw [hh] at h; exact .inl ⟨rfl, h⟩
  | period => rw [hh] at h; injection h with h; exact .inr (.inl ⟨rfl, h.symm⟩)
  | reset c => rw [hh] at h; injection h with h; exact .inr (.inr ⟨c, rfl, h.symm⟩)

/-- Every turn after the first is one that was already on the agenda. -/
theorem mem_popTurn {s : State} {x : Turn} (h : x ∈ (popTurn s).agenda) : x ∈ s.agenda :=
  List.mem_of_mem_tail h

/-- A scheduled RESET is on the agenda. -/
theorem mem_of_headTurn_reset {s : State} {c : Cfg} (h : headTurn s = .reset c) :
    .reset c ∈ s.agenda := by
  unfold headTurn at h
  split at h
  · cases h
  · rename_i ha; subst h; rw [ha]; exact List.mem_cons_self

@[simp] theorem run_zero (s : State) : run 0 s = .next s := rfl

/-- One more step in front of a run. -/
theorem run_succ (k : Nat) (s : State) :
    run (k + 1) s =
      match step s with
      | .next t => run k t
      | .fault f => .fault f
      | .refused r => .refused r := rfl

theorem run_succ_next {k : Nat} {s t : State} (h : step s = .next t) : run (k + 1) s = run k t := by
  rw [run_succ, h]

/-- A run is a run after a run. -/
theorem run_add (j k : Nat) (s : State) :
    run (j + k) s =
      match run j s with
      | .next t => run k t
      | .fault f => .fault f
      | .refused r => .refused r := by
  induction j generalizing s with
  | zero => simp
  | succ j ih =>
    rw [show j + 1 + k = (j + k) + 1 by omega, run_succ, run_succ]
    cases step s with
    | next t => exact ih t
    | fault f => rfl
    | refused r => rfl

end Sys2Proof.Machine
end

