-- ==== Sys2Proof/Tests/Slice0.lean ====
section
/-!
SUPPORT. Tests. Expected values come from 95_test_vectors.md (the section is named at each group) or
from the rule named; control words are written out from 30_encoding.md R50. The last part gives, for
every statement with hypotheses, a state and operands that meet them together.
-/

namespace Sys2Proof.Tests

open Sys2Proof.Machine

/-- The next state, if the outcome is one. -/
def nextOf (o : Host.Outcome State Fault Refusal) : Option State :=
  match o with
  | .next s => some s
  | .fault _ => none
  | .refused _ => none

/-- The refusal, if the outcome is one. -/
def refusalOf (o : Host.Outcome State Fault Refusal) : Option Refusal :=
  match o with
  | .next _ => none
  | .fault _ => none
  | .refused r => some r

/-- `cfg` with `MODE=Sweep, STEP=480, PW_INIT=0, DIR_INIT=Rising` and the defaults. -/
def sweepCfg : Cfg := { mode := .sweep, step := 480#32, pwInit := 0#32, dirInit := .rising }

/-- A state with the given phase, pulse width, direction and turns to come, in Sweep mode with a step of
480 at the default bounds. -/
def swept (p : Phase) (pw : Word) (d : Direction) (a : List Turn) : State :=
  { takeReset sweepCfg State.reset with phase := p, pw := pw, dir := d, agenda := a }

/-- The same in Static mode. -/
def still (p : Phase) (pw : Word) (d : Direction) (a : List Turn) : State :=
  { swept p pw d a with cfgMode := .static }

/-- The pair after an operation. -/
def pairAfter (i : Instr) (s : State) : Option (Int × Direction × Phase) :=
  (nextOf (exec i s)).map (fun t => (t.pw.toInt, t.dir, t.phase))

/-! Decode: words of 95_test_vectors.md 2.1 and of the programs of section 3. -/

theorem test_decode_wait : decodeTableWord 8 0b00011 = some (.wait .sweep .falling) := by decide
theorem test_decode_ack : decodeTableWord 8 0b00101 = some (.ack .static .falling) := by decide
theorem test_decode_adv_static : decodeTableWord 8 0b01001 = some (.advStatic false .falling) := by decide
theorem test_decode_adv_rise : decodeTableWord 8 0b01110 = some (.advRise true) := by decide
theorem test_decode_adv_fall : decodeTableWord 8 0b01011 = some (.advFall false) := by decide
theorem test_decode_cmpwr : decodeTableWord 8 0b10110 = some (.cmpwr true .sweep .rising) := by decide
theorem test_decode_rsvd : decodeTableWord 8 0b11000 = some (.rsvd false .static .rising) := by decide
theorem test_decode_wider_rejected : decodeTableWord 8 0b100000 = none := by decide
theorem test_control_word : controlWord (swept .acked 0#32 .falling []) = 0b01011#5 := by decide

/-! Well-formedness: the operation check, and one ill-formed configuration for each of WF1 to WF5
(95_test_vectors.md 2.7). -/

theorem test_rsvd_ill_formed : (Instr.rsvd false .static .rising).wellFormed = false := by decide
theorem test_default_well_formed : cfgWellFormed sweepCfg = true := by decide
theorem test_wf1_refuses : wf1 48000 0 = false := by decide
theorem test_wf2_refuses : wf2 0 48000 48001 = false := by decide
theorem test_wf3_refuses_at_17_bits :
    wf3 17 0 48000 17536 = false ∧ wf3 17 0 48000 17535 = true := by decide
theorem test_wf4_refuses : wf4 32 0 48000 (-1) = false ∧ wf4 17 0 48000 48000 = false
    ∧ wf4 18 0 48000 48000 = true := by decide
theorem test_wf5_refuses : wf5 0 48000 (-1) = false := by decide
theorem test_most_negative_step_refused :
    cfgAccepted { sweepCfg with step := BitVec.ofInt 32 (-2147483648) } = false := by decide

/-! The operations: 95_test_vectors.md 2.2 to 2.5. -/

theorem test_adv_static_clamps :
    pairAfter (.advStatic false .rising) (still .acked 2147483647#32 .rising [])
      = some (48000, .rising, .advanced) := by decide
theorem test_adv_static_keeps_low :
    pairAfter (.advStatic false .rising) (still .acked (BitVec.ofInt 32 (-5)) .rising [])
      = some (-5, .rising, .advanced) := by decide
theorem test_adv_rise_touches :
    pairAfter (.advRise false) (swept .acked 47520#32 .rising []) = some (48000, .falling, .advanced) := by
  decide
theorem test_adv_rise_negative_step :
    pairAfter (.advRise false)
        { swept .acked 24000#32 .rising [] with cfgStep := BitVec.ofInt 32 (-480) }
      = some (24480, .rising, .advanced) := by decide
theorem test_adv_fall_lower_bound :
    pairAfter (.advFall false) (swept .acked 200#32 .falling []) = some (0, .rising, .advanced) := by decide
theorem test_adv_fall_one_short :
    pairAfter (.advFall false) (swept .acked 481#32 .falling []) = some (1, .falling, .advanced) := by decide
theorem test_ack :
    nextOf (exec (.ack .sweep .rising) { swept .idle 47800#32 .rising [] with tickPending := true })
      = some { swept .acked 47800#32 .rising [] with trace := [.ack] } := by decide
theorem test_cmpwr :
    nextOf (exec (.cmpwr false .sweep .falling) (swept .advanced 48000#32 .falling []))
      = some { swept .idle 48000#32 .falling [] with cmp := 96000#32, trace := [.cmp 96000#32] } := by decide
theorem test_cmpwr_negative_refused :
    refusalOf (exec (.cmpwr false .static .rising) (still .advanced (BitVec.ofInt 32 (-48001)) .rising []))
      = some .compareValueOutOfRange := by decide
theorem test_wait :
    nextOf (exec (.wait .sweep .falling) (swept .idle 48000#32 .falling []))
      = some (swept .idle 48000#32 .falling []) := by decide
theorem test_rsvd_refused :
    refusalOf (step (swept .reserved 0#32 .rising [])) = some .reservedPhase := by decide
theorem test_period_quiescent :
    nextOf (step (swept .idle 0#32 .rising [.period]))
      = some { swept .idle 0#32 .rising [] with tickPending := true } := by decide
theorem test_period_overrun :
    nextOf (step (swept .acked 0#32 .rising [.period]))
      = some { swept .acked 0#32 .rising [] with tickPending := true, overrun := true } := by decide
theorem test_reset_keeps_cmp_and_pending :
    nextOf (step { still .advanced 31000#32 .falling [.reset sweepCfg] with
        tickPending := true, cmp := 79000#32, overrun := true })
      = some { swept .idle 0#32 .rising [] with tickPending := true, cmp := 79000#32 } := by decide
theorem test_fetch_word_runs :
    nextOf (step (State.reset.withFetchWord 8 0b00110))
      = some { State.reset with phase := .acked, cfgMode := .sweep, trace := [.ack] } := by decide

/-! Witnesses: for each statement with hypotheses, values that meet them together. -/

theorem witness_StepRunsDecodedOperation :
    (State.reset.configRefused = false ∧ State.reset.agenda = [])
      ∧ (swept .idle 0#32 .rising [.core]).agenda = .core :: []
      ∧ decodeTableWord 8 31 = some (.rsvd true .sweep .falling) := by decide

theorem witness_CmpwrEffect_lowest :
    (still .advanced (BitVec.ofInt 32 (-48000)) .rising []).cfgBase.toInt
      + (still .advanced (BitVec.ofInt 32 (-48000)) .rising []).pw.toInt = 0 := by decide

theorem witness_CmpwrEffect_highest :
    (still .advanced 2147435647#32 .rising []).cfgBase.toInt
      + (still .advanced 2147435647#32 .rising []).pw.toInt = 2147483647 := by decide

theorem witness_CmpwrRefusesUndefinedSum :
    (still .advanced (BitVec.ofInt 32 (-48001)) .rising []).cfgBase.toInt
        + (still .advanced (BitVec.ofInt 32 (-48001)) .rising []).pw.toInt = -1
      ∧ (still .advanced 2147435648#32 .rising []).cfgBase.toInt
        + (still .advanced 2147435648#32 .rising []).pw.toInt = 2147483648 := by decide

theorem witness_PeriodEffect : (swept .idle 0#32 .rising [.period, .core]).agenda = .period :: [.core] := rfl

theorem witness_ResetEffect :
    (swept .acked 0#32 .rising [.reset sweepCfg]).agenda = .reset sweepCfg :: []
      ∧ ∃ t, step (swept .acked 0#32 .rising []) = .next t
          ∧ ∀ c rest, (swept .acked 0#32 .rising []).agenda ≠ .reset c :: rest :=
  ⟨rfl, _, rfl, fun _ _ h => by cases h⟩

/-- A configuration with the bounds out of order, latched. -/
def refusedState : State := takeReset { sweepCfg with lo := 48001#32 } State.reset

theorem witness_RefusedConfigurationHasNoCoreSteps :
    refusedState.configRefused = true ∧ headTurn refusedState = .core := by decide

theorem witness_AdvanceStaysInBounds : (0 : Int) ≤ 48000 ∧ (0 : Int) ≤ (0, Direction.rising).1 := by decide

theorem witness_NoCoastAtABound :
    (0 : Int) < 48000 ∧ (0 : Int) ≤ 47520 ∧ (47520 : Int) ≤ 48000 ∧ (480 : Int) ≠ 0
      ∧ (advance 0 48000 47520 .rising 480 .sweep).1 = 48000
      ∧ (advance 0 48000 480 .falling 480 .sweep).1 = 0 := by decide

theorem witness_StepSignNeverMatters :
    (swept .acked 0#32 .rising []).cfgStep.toInt ≠ -2147483648
      ∧ sweepCfg.step.toInt ≠ -2147483648 ∧ cfgAccepted sweepCfg = true
      ∧ (BitVec.ofInt 32 (-2147483647)).toInt ≠ -2147483648
      ∧ (BitVec.ofInt 32 (-2147483648)).toInt = -2147483648 := by decide

theorem witness_OneAdvanceRepairsTheRange :
    (∃ s t, s.cfgLo.toInt ≤ s.cfgHi.toInt ∧ s.pw.toInt = -300 ∧ exec (.advRise false) s = .next t)
      ∧ (∃ s t, s.cfgLo.toInt ≤ s.cfgHi.toInt ∧ s.pw.toInt = 50000 ∧ exec (.advFall false) s = .next t)
      ∧ (∃ s t, s.cfgLo.toInt ≤ s.cfgHi.toInt ∧ s.pw.toInt = s.cfgHi.toInt
          ∧ exec (.advStatic false .rising) s = .next t) :=
  ⟨⟨swept .acked (BitVec.ofInt 32 (-300)) .rising [], _, by decide, by decide, rfl⟩,
    ⟨swept .acked 50000#32 .falling [], _, by decide, by decide, rfl⟩,
    ⟨still .acked 48000#32 .rising [], _, by decide, by decide, rfl⟩⟩

theorem witness_SegmentsAreMonotonic_strict :
    (∃ s t, s.cfgLo.toInt ≤ s.cfgHi.toInt ∧ exec (.advRise false) s = .next t
        ∧ s.cfgStep ≠ 0#32 ∧ s.pw.toInt + 1 = s.cfgHi.toInt)
      ∧ ∃ s t, s.cfgLo.toInt ≤ s.cfgHi.toInt ∧ exec (.advFall false) s = .next t
        ∧ s.cfgStep ≠ 0#32 ∧ s.cfgLo.toInt + 1 = s.pw.toInt :=
  ⟨⟨swept .acked 47999#32 .rising [], _, by decide, rfl, by decide, by decide⟩,
    ⟨swept .acked 1#32 .falling [], _, by decide, rfl, by decide, by decide⟩⟩

theorem witness_SegmentsAreMonotonic_at_the_bounds :
    (∃ s t, s.cfgLo.toInt ≤ s.cfgHi.toInt ∧ exec (.advRise false) s = .next t ∧ s.pw = s.cfgHi)
      ∧ ∃ s t, s.cfgLo.toInt ≤ s.cfgHi.toInt ∧ exec (.advFall false) s = .next t ∧ s.pw = s.cfgLo :=
  ⟨⟨swept .acked 48000#32 .rising [], _, by decide, rfl, rfl⟩,
    ⟨swept .acked 0#32 .falling [], _, by decide, rfl, rfl⟩⟩

theorem witness_SegmentsAreMonotonic_zero_step :
    (∃ s t, s.cfgLo.toInt ≤ s.cfgHi.toInt ∧ exec (.advRise false) s = .next t
        ∧ s.cfgStep = 0#32 ∧ InBounds s)
      ∧ ∃ s t, s.cfgLo.toInt ≤ s.cfgHi.toInt ∧ exec (.advFall false) s = .next t
        ∧ s.cfgStep = 0#32 ∧ InBounds s :=
  ⟨⟨{ swept .acked 0#32 .rising [] with cfgStep := 0#32 }, _, by decide, rfl, rfl, by decide⟩,
    ⟨{ swept .acked 0#32 .falling [] with cfgStep := 0#32 }, _, by decide, rfl, rfl, by decide⟩⟩

theorem witness_DirectionFlipsExactlyAtBounds :
    (∃ s t, headTurn s = .core ∧ s.phase = .acked ∧ s.cfgMode = .sweep ∧ InBounds s
        ∧ s.cfgStep ≠ 0#32 ∧ step s = .next t ∧ s.dir = .rising
        ∧ s.pw.toInt + |s.cfgStep.toInt| = s.cfgHi.toInt)
      ∧ ∃ s t, headTurn s = .core ∧ s.phase = .acked ∧ s.cfgMode = .sweep ∧ InBounds s
        ∧ s.cfgStep ≠ 0#32 ∧ step s = .next t ∧ s.dir = .falling
        ∧ s.pw.toInt - |s.cfgStep.toInt| = s.cfgLo.toInt :=
  ⟨⟨swept .acked 47520#32 .rising [], _, rfl, rfl, rfl, by decide, by decide, rfl, rfl, by decide⟩,
    ⟨swept .acked 480#32 .falling [], _, rfl, rfl, rfl, by decide, by decide, rfl, rfl, by decide⟩⟩

theorem witness_NoOverflowInBounds :
    latchedAccepted (swept .acked 48000#32 .rising []) = true ∧ InBounds (swept .acked 48000#32 .rising []) := by
  decide

/-- A state about to be serviced. -/
def due (s : State) (rest : List Turn) : State :=
  { s with phase := .idle, tickPending := true, agenda := serviceTurns ++ rest }

theorem witness_ServiceNetEffect :
    ∃ s : State, s.configRefused = false ∧ s.phase = .idle ∧ s.tickPending = true
      ∧ s.agenda = serviceTurns ++ []
      ∧ 0 ≤ s.cfgBase.toInt
          + (advance s.cfgLo.toInt s.cfgHi.toInt s.pw.toInt s.dir s.cfgStep.toInt s.cfgMode).1
      ∧ s.cfgBase.toInt
          + (advance s.cfgLo.toInt s.cfgHi.toInt s.pw.toInt s.dir s.cfgStep.toInt s.cfgMode).1 ≤ 2147483647 :=
  ⟨due (swept .idle 47800#32 .rising []) [], by decide⟩

/-- The hypotheses of ZeroStepSweepIsANoOp at one pulse width. -/
abbrev ZeroStepHypotheses (s : State) : Prop :=
  s.configRefused = false ∧ s.phase = .idle ∧ s.tickPending = true ∧ s.agenda = serviceTurns ++ []
    ∧ s.cfgMode = .sweep ∧ s.cfgStep = 0#32 ∧ InBounds s
    ∧ 0 ≤ s.cfgBase.toInt + s.pw.toInt ∧ s.cfgBase.toInt + s.pw.toInt ≤ 2147483647

theorem witness_ZeroStepSweepIsANoOp :
    ZeroStepHypotheses (due { swept .idle 48000#32 .rising [] with cfgStep := 0#32 } [])
      ∧ ZeroStepHypotheses (due { swept .idle 0#32 .falling [] with cfgStep := 0#32 } [])
      ∧ ZeroStepHypotheses (due { swept .idle 1#32 .rising [] with cfgStep := 0#32 } [])
      ∧ ZeroStepHypotheses (due { swept .idle 47999#32 .falling [] with cfgStep := 0#32 } []) := by decide

theorem witness_StaticServiceRewritesTheSameValue :
    ∃ s : State, s.configRefused = false ∧ s.phase = .idle ∧ s.tickPending = true
      ∧ s.agenda = serviceTurns ++ [] ∧ s.cfgMode = .static ∧ s.pw.toInt ≤ s.cfgHi.toInt
      ∧ (s.cmp.toNat : Int) = s.cfgBase.toInt + s.pw.toInt
      ∧ s.cfgBase.toInt + s.pw.toInt ≤ 2147483647 :=
  ⟨due { still .idle 24000#32 .rising [] with cmp := 72000#32 } [], by decide⟩

theorem witness_FirstServiceAfterReset :
    ∃ (s : State) (c : Cfg), cfgWellFormed c = true ∧ s.tickPending = false
      ∧ s.agenda = .reset c :: (tickTurns 1 ++ []) ∧ c.mode = .static :=
  ⟨swept .advanced 5#32 .falling (.reset { sweepCfg with mode := .static } :: (tickTurns 1 ++ [])),
    { sweepCfg with mode := .static }, by decide⟩

theorem witness_PeriodInsideAService :
    (∃ s : State, isQuiescent s = true ∧ s.configRefused = false ∧ latchedAccepted s = true ∧ InBounds s
        ∧ s.agenda = [.period, .core, .period, .core, .core, .core, .core, .core] ++ [])
      ∧ ∃ s : State, isQuiescent s = true ∧ s.configRefused = false ∧ latchedAccepted s = true ∧ InBounds s
        ∧ s.agenda = [.period, .period, .core, .core, .core] ++ [] :=
  ⟨⟨swept .idle 0#32 .rising [.period, .core, .period, .core, .core, .core, .core, .core], by decide⟩,
    ⟨swept .idle 0#32 .rising [.period, .period, .core, .core, .core], by decide⟩⟩

theorem witness_PeriodCommutesWithinAService :
    (swept .acked 0#32 .rising []).phase = .acked ∧ (swept .advanced 0#32 .rising []).phase = .advanced := by
  decide

theorem witness_PeriodAgainstAckBothOrders :
    (due (swept .idle 0#32 .rising []) []).configRefused = false
      ∧ (due (swept .idle 0#32 .rising []) []).phase = .idle
      ∧ (due (swept .idle 0#32 .rising []) []).tickPending = true := by decide

theorem witness_QuiescentCoreKeepsItsState :
    State.reset.configRefused = false ∧ isQuiescent State.reset = true ∧ State.reset.agenda = [] := by decide

/-- One step of each agent, and one of each phase of the core, answers a next state: the hypothesis of
the statements about every step. -/
theorem witness_every_kind_of_step :
    (∃ t, step (swept .idle 0#32 .rising [.period]) = .next t)
      ∧ (∃ t, step (swept .acked 0#32 .rising [.reset sweepCfg]) = .next t)
      ∧ (∃ t, step (swept .idle 0#32 .rising [.core]) = .next t)
      ∧ (∃ t, step (due (swept .idle 0#32 .rising []) []) = .next t)
      ∧ (∃ t, step (swept .acked 0#32 .rising [.core]) = .next t)
      ∧ ∃ t, step (swept .advanced 0#32 .rising [.core]) = .next t :=
  ⟨⟨_, rfl⟩, ⟨_, rfl⟩, ⟨_, rfl⟩, ⟨_, rfl⟩, ⟨_, rfl⟩, ⟨_, rfl⟩⟩

/-- Each register of the table of R109 does change in some step of an agent that the table names: the
premises of the clauses of `EveryRegisterHasItsOwner` (a configuration register and `PHASE` by RESET,
`TICK_PENDING` both ways). -/
theorem witness_EveryRegisterHasItsOwner :
    (∃ t, step (swept .acked 47520#32 .rising []) = .next t
        ∧ t.pw ≠ 47520#32 ∧ t.dir ≠ .rising ∧ t.phase ≠ .acked)
      ∧ (∃ t, step (still .acked 0#32 .rising [.reset sweepCfg]) = .next t
        ∧ t.cfgMode ≠ .static ∧ t.phase ≠ .acked)
      ∧ (∃ t, step (swept .idle 0#32 .rising [.period]) = .next t ∧ t.tickPending ≠ false)
      ∧ (∃ t, step (due (swept .idle 0#32 .rising []) []) = .next t ∧ t.tickPending ≠ true)
      ∧ ∃ t, step (swept .advanced 0#32 .rising []) = .next t ∧ t.cmp ≠ 0#32 :=
  ⟨⟨_, rfl, by decide⟩, ⟨_, rfl, by decide⟩, ⟨_, rfl, by decide⟩, ⟨_, rfl, by decide⟩, ⟨_, rfl, by decide⟩⟩

theorem witness_ResetForgetsThePast :
    (swept .acked 9#32 .falling [.reset sweepCfg, .period]).agenda = .reset sweepCfg :: [.period]
      ∧ (still .idle 7#32 .rising [.reset sweepCfg, .period]).agenda = .reset sweepCfg :: [.period]
      ∧ (swept .acked 9#32 .falling []).tickPending = (still .idle 7#32 .rising []).tickPending := by decide

theorem witness_Legal_and_Safe_step :
    Safe (swept .advanced 48000#32 .falling [.core, .period, .reset sweepCfg])
      ∧ ∃ t, step (swept .advanced 48000#32 .falling [.core, .period, .reset sweepCfg]) = .next t :=
  ⟨by decide, _, rfl⟩

theorem witness_EveryStepKeepsTheTraceAlternating :
    (NoResetAhead (due (swept .idle 0#32 .rising []) [])
        ∧ alternates false (due (swept .idle 0#32 .rising []) []).trace = true
        ∧ endsInAck (due (swept .idle 0#32 .rising []) []).trace = false)
      ∧ ∃ t, step (due (swept .idle 0#32 .rising []) []) = .next t := ⟨by decide, _, rfl⟩

theorem witness_CmpHoldsTheLastValueWritten :
    lastCmp [.ack, .cmp 7#32, .ack] = some 7#32
      ∧ ∃ t, step { swept .advanced 0#32 .rising [] with
          cmp := 7#32, trace := [.ack, .cmp 7#32, .ack] } = .next t := ⟨by decide, _, rfl⟩

theorem witness_OutputSequence :
    ∃ (s : State) (c : Cfg), cfgWellFormed c = true ∧ s.tickPending = false
      ∧ s.agenda = .reset c :: (tickTurns 2 ++ []) :=
  ⟨swept .acked 0#32 .falling (.reset sweepCfg :: (tickTurns 2 ++ [])), sweepCfg, by decide⟩

theorem witness_OutputIndependentOfTheSchedule :
    ∃ (s t : State) (c : Cfg) (rest : List Turn), cfgWellFormed c = true ∧ s.tickPending = false
      ∧ s.agenda = .reset c :: rest ∧ (∀ x ∈ rest, x.isReset = false) ∧ run (3 + 1) s = .next t :=
  ⟨swept .idle 0#32 .rising [.reset sweepCfg, .period, .core, .core], _, sweepCfg,
    [.period, .core, .core], by decide, rfl, rfl, by decide, rfl⟩

/-- The hypotheses of TriangleWave for `k` periods, and the value of `K`. -/
abbrev TriangleHypotheses (k : Nat) (kk : Int) (s : State) : Prop :=
  isQuiescent s = true ∧ s.configRefused = false ∧ latchedAccepted s = true ∧ s.cfgMode = .sweep
    ∧ s.pw = s.cfgLo ∧ s.dir = .rising ∧ s.cfgStep ≠ 0#32 ∧ s.agenda = tickTurns k ++ []
    ∧ (s.cfgHi.toInt - s.cfgLo.toInt + |s.cfgStep.toInt| - 1) / |s.cfgStep.toInt| = kk
    ∧ (k : Int) ≤ 2 * kk

/-- A step of 24000, so that `K = 2`: the clauses meet at 1, 2, 3 and 4 periods. -/
def wide (k : Nat) : State :=
  { swept .idle 0#32 .rising (tickTurns k ++ []) with cfgStep := 24000#32 }

theorem witness_TriangleWave :
    TriangleHypotheses 1 2 (wide 1) ∧ TriangleHypotheses 2 2 (wide 2) ∧ TriangleHypotheses 3 2 (wide 3)
      ∧ TriangleHypotheses 4 2 (wide 4) := by decide

end Sys2Proof.Tests
end

/-!
PROOFS, scope (00_scope.md R6): well-formedness of a configuration at an arbitrary width, and what it
comes to at the default bounds and baseline.
-/

namespace Sys2Proof.Machine

/-- WF1 to WF4 at an arbitrary width, read off as inequalities (00_scope.md R6). -/
theorem wfCore_iff (w : Nat) (lo hi base st : Int) :
    wfCore w lo hi base st = true ↔
      lo ≤ hi ∧ |st| ≤ hi - lo
        ∧ (-2 ^ (w - 1) ≤ lo - |st| ∧ hi + |st| ≤ 2 ^ (w - 1) - 1 ∧ st ≠ -2 ^ (w - 1))
        ∧ (0 ≤ base + lo ∧ base + hi ≤ 2 ^ (w - 1) - 1) := by
  simp only [wfCore, wf1, wf2, wf3, wf4, magnitude_eq_abs, Bool.and_eq_true, decide_eq_true_eq,
    and_assoc]

/-- WF5, read off as inequalities (00_scope.md R6). -/
theorem wf5_iff (lo hi pwInit : Int) : wf5 lo hi pwInit = true ↔ lo ≤ pwInit ∧ pwInit ≤ hi := by
  simp only [wf5, Bool.and_eq_true, decide_eq_true_eq]

/-- 96000 is `HI + HI = BASE + HI`, the largest value formed at the defaults. It lies between `2^16`
and `2^17`, so it fits a signed word from 18 bits on, and 17 bits are not enough
(00_scope.md R6, 90_conflicts.md C2). -/
theorem fits_96000_iff (w : Nat) : (96000 : Int) ≤ 2 ^ (w - 1) - 1 ↔ 18 ≤ w := by
  constructor
  · intro hfits
    by_contra hw
    have hpow : (2 : Int) ^ (w - 1) ≤ 2 ^ 16 := pow_le_pow_right₀ (by norm_num) (by omega)
    omega
  · intro hw
    have hpow : (2 : Int) ^ 17 ≤ 2 ^ (w - 1) := pow_le_pow_right₀ (by norm_num) (by omega)
    omega

/-- At the default bounds and baseline, WF4 already forces the width, and the width together with WF2
gives WF3. -/
theorem wfCore_defaults_iff (w : Nat) (st : Int) :
    wfCore w 0 48000 48000 st = true ↔ |st| ≤ 48000 ∧ 18 ≤ w := by
  rw [wfCore_iff, ← fits_96000_iff]
  constructor
  · rintro ⟨-, hwf2, -, -, hwf4⟩
    exact ⟨by omega, by omega⟩
  · rintro ⟨hst, hfits⟩
    have hneg : -|st| ≤ st := neg_abs_le st
    exact ⟨by omega, by omega, ⟨by omega, by omega, by omega⟩, by omega, by omega⟩

/-- Settles O27: WF1 to WF4 give the step and the width, WF5 the initial pulse width. -/
theorem wellFormedAtTheDefaults : Obligations.WellFormedAtTheDefaults := by
  intro w st pwInit
  rw [Bool.and_eq_true, wfCore_defaults_iff, wf5_iff]
  tauto

end Sys2Proof.Machine

/-!
PROOFS, state (10_state.md): what the shared body of the three ADV operations leaves of each register,
what every step keeps (the configuration, a legal phase, the bounds of R20), the transitions of
`PHASE` (R14), and the Static-mode service (R24).
-/

namespace Sys2Proof.Machine

/-! ### The advance of a state: one lemma per register -/

theorem applyAdvance_pw (d : Direction) (m : Mode) (s : State) :
    (applyAdvance d m s).pw
      = toWord (advance s.cfgLo.toInt s.cfgHi.toInt s.pw.toInt d s.cfgStep.toInt m).1 := rfl

/-- The new `PW` is the exact integer that `advance` answers (40_waveform_generator.md R67). -/
@[simp] theorem applyAdvance_pw_toInt (d : Direction) (m : Mode) (s : State) :
    (applyAdvance d m s).pw.toInt
      = (advance s.cfgLo.toInt s.cfgHi.toInt s.pw.toInt d s.cfgStep.toInt m).1 := by
  rw [applyAdvance_pw, advance_fits]

@[simp] theorem applyAdvance_dir (d : Direction) (m : Mode) (s : State) :
    (applyAdvance d m s).dir
      = (advance s.cfgLo.toInt s.cfgHi.toInt s.pw.toInt d s.cfgStep.toInt m).2 := rfl
@[simp] theorem applyAdvance_phase (d : Direction) (m : Mode) (s : State) :
    (applyAdvance d m s).phase = .advanced := rfl
@[simp] theorem applyAdvance_cfgMode (d : Direction) (m : Mode) (s : State) :
    (applyAdvance d m s).cfgMode = s.cfgMode := rfl
@[simp] theorem applyAdvance_cfgStep (d : Direction) (m : Mode) (s : State) :
    (applyAdvance d m s).cfgStep = s.cfgStep := rfl
@[simp] theorem applyAdvance_cfgLo (d : Direction) (m : Mode) (s : State) :
    (applyAdvance d m s).cfgLo = s.cfgLo := rfl
@[simp] theorem applyAdvance_cfgHi (d : Direction) (m : Mode) (s : State) :
    (applyAdvance d m s).cfgHi = s.cfgHi := rfl
@[simp] theorem applyAdvance_cfgBase (d : Direction) (m : Mode) (s : State) :
    (applyAdvance d m s).cfgBase = s.cfgBase := rfl
@[simp] theorem applyAdvance_cmp (d : Direction) (m : Mode) (s : State) :
    (applyAdvance d m s).cmp = s.cmp := rfl
@[simp] theorem applyAdvance_tickPending (d : Direction) (m : Mode) (s : State) :
    (applyAdvance d m s).tickPending = s.tickPending := rfl
@[simp] theorem applyAdvance_overrun (d : Direction) (m : Mode) (s : State) :
    (applyAdvance d m s).overrun = s.overrun := rfl
@[simp] theorem applyAdvance_configRefused (d : Direction) (m : Mode) (s : State) :
    (applyAdvance d m s).configRefused = s.configRefused := rfl
@[simp] theorem applyAdvance_trace (d : Direction) (m : Mode) (s : State) :
    (applyAdvance d m s).trace = s.trace := rfl
@[simp] theorem applyAdvance_agenda (d : Direction) (m : Mode) (s : State) :
    (applyAdvance d m s).agenda = s.agenda := rfl

/-! ### The bounds after an advance -/

/-- A Sweep-mode advance brings any pulse width between the bounds (10_state.md R20). -/
theorem applyAdvance_sweep_inBounds {s : State} (h : s.cfgLo.toInt ≤ s.cfgHi.toInt)
    (d : Direction) : InBounds (applyAdvance d .sweep s) := by
  simpa [InBounds] using advance_sweep_bounds h s.pw.toInt s.cfgStep.toInt d

/-- A Static-mode advance clamps above only, so it meets the lower bound exactly when the old pulse
width did (10_state.md R20, 40_waveform_generator.md R75). -/
theorem applyAdvance_static_inBounds_iff {s : State} (h : s.cfgLo.toInt ≤ s.cfgHi.toInt)
    (d : Direction) : InBounds (applyAdvance d .static s) ↔ s.cfgLo.toInt ≤ s.pw.toInt := by
  simp [InBounds, h]

/-- In either mode an advance keeps the pulse width in bounds. -/
theorem applyAdvance_inBounds {s : State} (h : InBounds s) (d : Direction) (m : Mode) :
    InBounds (applyAdvance d m s) := by
  obtain ⟨hlo, hhi⟩ := h
  cases m with
  | static => exact (applyAdvance_static_inBounds_iff (hlo.trans hhi) d).mpr hlo
  | sweep => exact applyAdvance_sweep_inBounds (hlo.trans hhi) d

/-- A Static-mode advance from a pulse width not above `HI` keeps it (40_waveform_generator.md R61). -/
theorem applyAdvance_static_pw_of_le {s : State} (h : s.pw.toInt ≤ s.cfgHi.toInt) (d : Direction) :
    (applyAdvance d .static s).pw = s.pw := by
  simp [applyAdvance_pw, min_eq_left h]

/-- A Static-mode advance from a pulse width not below `HI` gives `HI` (40_waveform_generator.md R61). -/
theorem applyAdvance_static_pw_of_ge {s : State} (h : s.cfgHi.toInt ≤ s.pw.toInt) (d : Direction) :
    (applyAdvance d .static s).pw = s.cfgHi := by
  simp [applyAdvance_pw, min_eq_right h]

theorem exec_advStatic (b : Bool) (d : Direction) (s : State) :
    exec (.advStatic b d) s = .next (applyAdvance s.dir .static s) := rfl

theorem exec_advRise (b : Bool) (s : State) :
    exec (.advRise b) s = .next (applyAdvance .rising .sweep s) := rfl

theorem exec_advFall (b : Bool) (s : State) :
    exec (.advFall b) s = .next (applyAdvance .falling .sweep s) := rfl

/-- Settles O23: each ADV operation is `applyAdvance`, whose bounds the lemmas above give by mode. -/
theorem oneAdvanceRepairsTheRange : Obligations.OneAdvanceRepairsTheRange := by
  intro s t hwf
  refine ⟨fun b h => ?_, fun b h => ?_, fun b d h => ?_⟩
  · rw [exec_advRise] at h
    obtain rfl := Host.Outcome.next.inj h
    exact applyAdvance_sweep_inBounds hwf _
  · rw [exec_advFall] at h
    obtain rfl := Host.Outcome.next.inj h
    exact applyAdvance_sweep_inBounds hwf _
  · rw [exec_advStatic] at h
    obtain rfl := Host.Outcome.next.inj h
    exact ⟨fun hge => applyAdvance_static_pw_of_ge hge _,
      fun hle => applyAdvance_static_pw_of_le hle _, applyAdvance_static_inBounds_iff hwf _⟩

/-! ### A turn of the core, by phase -/

theorem coreTurn_pending {s : State} (hr : s.configRefused = false) (hp : s.phase = .idle)
    (ht : s.tickPending = true) : coreTurn s = .next (enterService s) := by
  simp [coreTurn_eq, hr, hp, ht]

theorem coreTurn_acked {s : State} (hr : s.configRefused = false) (hp : s.phase = .acked) :
    coreTurn s = .next (applyAdvance s.dir s.cfgMode s) := by
  simp [coreTurn_eq, hr, hp]

theorem coreTurn_advanced {s : State} (hr : s.configRefused = false) (hp : s.phase = .advanced) :
    coreTurn s = execCmpwr s := by
  simp [coreTurn_eq, hr, hp]

/-- What a turn of the core in `Acked` has done (41_period_tick_driver.md R83). -/
theorem coreTurn_next_acked {s t : State} (hp : s.phase = .acked) (h : coreTurn s = .next t) :
    t = applyAdvance s.dir s.cfgMode s := by
  have hr : s.configRefused = false := (coreTurn_next h).1
  rw [coreTurn_acked hr hp] at h
  exact (Host.Outcome.next.inj h).symm

/-- In a quiescent state a turn of the core changes nothing (41_period_tick_driver.md R81). -/
theorem coreTurn_quiescent {s : State} (hr : s.configRefused = false) (hq : isQuiescent s = true) :
    coreTurn s = .next s := by
  obtain ⟨hp, ht⟩ := (isQuiescent_iff s).mp hq
  simp [coreTurn_eq, hr, hp, ht]

/-! ### The turn of the direction -/

/-- A Rising advance with a step that is not 0 turns exactly when the tentative value touches or
exceeds `HI`, and exactly when it answers `HI`: it cannot saturate below, for it leaves `LO` upward. -/
theorem advance_rising_turns_iff {lo hi c st : Int} (hlo : lo ≤ c) (hst : st ≠ 0) :
    ((advance lo hi c .rising st .sweep).2 = .falling ↔ hi ≤ c + |st|)
      ∧ ((advance lo hi c .rising st .sweep).2 = .falling
          ↔ (advance lo hi c .rising st .sweep).1 = hi) := by
  have hpos : 0 < |st| := abs_pos.mpr hst
  obtain ⟨ht, e⟩ | ⟨_, ht, _⟩ | ⟨ht, _, e⟩ := advance_sweep_cases lo hi c st .rising <;>
    rw [tentative_rising, magnitude_eq_abs] at ht
  · simp [e, ht]
  · omega
  · simp [e, magnitude_eq_abs, ht, ht.ne]

/-- A Falling advance with a step that is not 0 turns exactly when the tentative value touches or
exceeds `LO`, and exactly when it answers `LO`: it cannot saturate above, for it leaves `HI`
downward. -/
theorem advance_falling_turns_iff {lo hi c st : Int} (hhi : c ≤ hi) (hst : st ≠ 0) :
    ((advance lo hi c .falling st .sweep).2 = .rising ↔ c - |st| ≤ lo)
      ∧ ((advance lo hi c .falling st .sweep).2 = .rising
          ↔ (advance lo hi c .falling st .sweep).1 = lo) := by
  have hpos : 0 < |st| := abs_pos.mpr hst
  obtain ⟨ht, _⟩ | ⟨_, ht, e⟩ | ⟨_, ht, e⟩ := advance_sweep_cases lo hi c st .falling <;>
    rw [tentative_falling, magnitude_eq_abs] at ht
  · omega
  · simp [e, ht]
  · simp [e, magnitude_eq_abs, ht.ne', lt_sub_iff_add_lt.mp ht]

/-- Settles O25: the core's step in `Acked` is the advance of the pair, and each direction turns by the
lemma for it. -/
theorem directionFlipsExactlyAtBounds : Obligations.DirectionFlipsExactlyAtBounds := by
  intro s t hturn hphase hmode hin hstep h
  have hcore : coreTurn (popTurn s) = .next t := (step_of_head hturn).symm.trans h
  obtain rfl := coreTurn_next_acked (s := popTurn s) hphase hcore
  have hst : s.cfgStep.toInt ≠ 0 := mt (word_toInt_eq_zero_iff _).mp hstep
  refine ⟨fun hd => ?_, fun hd => ?_, applyAdvance_inBounds (s := popTurn s) hin _ _⟩
  · rw [← BitVec.toInt_inj]
    simpa [hmode, hd] using advance_rising_turns_iff hin.1 hst
  · rw [← BitVec.toInt_inj]
    simpa [hmode, hd] using advance_falling_turns_iff hin.2 hst

/-! ### What a step keeps -/

/-- `t` has the latched configuration and the mark `ConfigRefused` of `s`. -/
structure SameConfiguration (s t : State) : Prop where
  mode : t.cfgMode = s.cfgMode
  step : t.cfgStep = s.cfgStep
  lo : t.cfgLo = s.cfgLo
  hi : t.cfgHi = s.cfgHi
  base : t.cfgBase = s.cfgBase
  refused : t.configRefused = s.configRefused

/-- The well-formedness of the latched configuration is read from nothing else. -/
theorem SameConfiguration.latchedAccepted_eq {s t : State} (h : SameConfiguration s t) :
    latchedAccepted t = latchedAccepted s := by
  simp [latchedAccepted, h.step, h.lo, h.hi, h.base]

/-- No turn of the core writes a configuration register (10_state.md R15). -/
theorem coreTurn_sameConfiguration {s t : State} (h : coreTurn s = .next t) :
    SameConfiguration s t := by
  obtain ⟨-, ⟨-, -, rfl⟩ | ⟨-, -, rfl⟩ | ⟨-, rfl⟩ | ⟨-, -, -, rfl⟩⟩ := coreTurn_next h <;>
    exact ⟨rfl, rfl, rfl, rfl, rfl, rfl⟩

/-- No step but a RESET writes a configuration register (10_state.md R15). -/
theorem step_sameConfiguration {s t : State} (h : step s = .next t)
    (hreset : (headTurn s).isReset = false) : SameConfiguration s t := by
  obtain ⟨-, hc⟩ | ⟨-, rfl⟩ | ⟨c, hh, -⟩ := step_next h
  · have same := coreTurn_sameConfiguration hc
    exact ⟨same.mode, same.step, same.lo, same.hi, same.base, same.refused⟩
  · exact ⟨rfl, rfl, rfl, rfl, rfl, rfl⟩
  · rw [hh] at hreset
    cases hreset

theorem coreTurn_agenda {s t : State} (h : coreTurn s = .next t) : t.agenda = s.agenda := by
  obtain ⟨-, ⟨-, -, rfl⟩ | ⟨-, -, rfl⟩ | ⟨-, rfl⟩ | ⟨-, -, -, rfl⟩⟩ := coreTurn_next h <;> rfl

/-- Every step takes one turn off the agenda. -/
theorem step_agenda {s t : State} (h : step s = .next t) : t.agenda = s.agenda.tail := by
  obtain ⟨-, hc⟩ | ⟨-, rfl⟩ | ⟨c, -, rfl⟩ := step_next h
  · rw [coreTurn_agenda hc, popTurn_agenda]
  · rfl
  · rfl

/-- Settles O36: by whose turn it was, and for the core by phase; a core in the reserved phase answers
no next state (41_period_tick_driver.md R85). -/
theorem phaseTransitions : Obligations.PhaseTransitions := by
  intro s t h
  obtain ⟨hh, hc⟩ | ⟨hh, rfl⟩ | ⟨c, hh, rfl⟩ := step_next h
  · obtain ⟨-, ⟨hp, ht, rfl⟩ | ⟨hp, ht, rfl⟩ | ⟨hp, rfl⟩ | ⟨hp, -, -, rfl⟩⟩ := coreTurn_next hc <;>
      rw [popTurn_phase] at hp
    · have ht : s.tickPending = false := ht
      simp [hh, hp, ht]
    · have ht : s.tickPending = true := ht
      simp [hh, hp, ht]
    · simp [hh, hp]
    · simp [hh, hp]
  · simp [hh]
  · simp [hh]

/-- The core answers no next state in the reserved phase, and leads to it from no other. -/
theorem coreTurn_phase_ne_reserved {s t : State} (h : coreTurn s = .next t) :
    t.phase ≠ .reserved := by
  obtain ⟨-, ⟨hp, -, rfl⟩ | ⟨-, -, rfl⟩ | ⟨-, rfl⟩ | ⟨-, -, -, rfl⟩⟩ := coreTurn_next h
  · simp [hp]
  · simp
  · simp
  · simp

@[simp] theorem latchedAccepted_takeReset (c : Cfg) (s : State) :
    latchedAccepted (takeReset c s) = cfgAccepted c := rfl

/-- RESET leaves a legal state, whatever the configuration and the state it found
(70_reset_and_hazards.md R120). -/
theorem takeReset_legal (c : Cfg) (s : State) : Legal (takeReset c s) := by
  simp [Legal]

/-- Settles O43: only RESET writes the configuration, and it writes the mark to match; only the core and
RESET write `PHASE`, and neither leaves the reserved value there. -/
theorem everyStepKeepsLegal : Obligations.EveryStepKeepsLegal := by
  rintro s t ⟨hphase, hmark⟩ h
  have keepsMark (hreset : (headTurn s).isReset = false) : t.configRefused = !latchedAccepted t := by
    have same := step_sameConfiguration h hreset
    rw [same.refused, same.latchedAccepted_eq, hmark]
  obtain ⟨hh, hc⟩ | ⟨hh, rfl⟩ | ⟨c, -, rfl⟩ := step_next h
  · exact ⟨coreTurn_phase_ne_reserved hc, keepsMark (by rw [hh]; rfl)⟩
  · exact ⟨hphase, keepsMark (by rw [hh]; rfl)⟩
  · exact takeReset_legal c _

/-- WF1 to WF5, taken apart (00_scope.md R6). -/
theorem cfgWellFormed_iff (c : Cfg) :
    cfgWellFormed c = true ↔
      cfgAccepted c = true ∧ c.lo.toInt ≤ c.pwInit.toInt ∧ c.pwInit.toInt ≤ c.hi.toInt := by
  rw [cfgWellFormed, Bool.and_eq_true, wf5_iff]

/-- RESET with a well-formed configuration leaves a safe state, if only well-formed ones are to come
(10_state.md R23). -/
theorem takeReset_safe {c : Cfg} {s : State} (hc : cfgWellFormed c = true)
    (hs : RespectfulAgenda s) : Safe (takeReset c s) := by
  obtain ⟨haccepted, hbounds⟩ := (cfgWellFormed_iff c).mp hc
  exact ⟨takeReset_legal c s, haccepted, hbounds, hs⟩

/-- A turn of the core keeps the pulse width in bounds (10_state.md R20). -/
theorem coreTurn_inBounds {s t : State} (hin : InBounds s) (h : coreTurn s = .next t) :
    InBounds t := by
  obtain ⟨-, ⟨-, -, rfl⟩ | ⟨-, -, rfl⟩ | ⟨-, rfl⟩ | ⟨-, -, -, rfl⟩⟩ := coreTurn_next h
  · exact hin
  · exact hin
  · exact applyAdvance_inBounds hin _ _
  · exact hin

/-- The turns left after a step are as well formed as the turns before it. -/
theorem respectfulAgenda_popTurn {s : State} (h : RespectfulAgenda s) :
    RespectfulAgenda (popTurn s) :=
  fun x hx => h x (mem_popTurn hx)

/-- Settles O44: legality is O43; outside RESET the configuration stays and the core keeps the bounds;
a RESET on a respectful agenda presents a well-formed configuration. -/
theorem everyStepKeepsSafe : Obligations.EveryStepKeepsSafe := by
  rintro s t ⟨hlegal, haccepted, hin, hagenda⟩ h
  have hlegal' : Legal t := everyStepKeepsLegal s t hlegal h
  have hagenda' : RespectfulAgenda t := by
    intro x hx
    rw [step_agenda h] at hx
    exact hagenda x (List.mem_of_mem_tail hx)
  have keepsAccepted (hreset : (headTurn s).isReset = false) : latchedAccepted t = true := by
    rw [(step_sameConfiguration h hreset).latchedAccepted_eq, haccepted]
  obtain ⟨hh, hc⟩ | ⟨hh, rfl⟩ | ⟨c, hh, rfl⟩ := step_next h
  · exact ⟨hlegal', keepsAccepted (by rw [hh]; rfl), coreTurn_inBounds (s := popTurn s) hin hc, hagenda'⟩
  · exact ⟨hlegal', keepsAccepted (by rw [hh]; rfl), hin, hagenda'⟩
  · have hwf : cfgWellFormed c = true := hagenda _ (mem_of_headTurn_reset hh)
    exact takeReset_safe hwf (respectfulAgenda_popTurn hagenda)

/-! ### The reset state -/

theorem cfgWellFormed_resetCfg : cfgWellFormed Config.resetCfg = true := by decide

/-- The reset state is what RESET leaves of any state, but for what RESET does not write. -/
theorem reset_eq_takeReset (p : State) :
    State.reset =
      { takeReset Config.resetCfg p with
        cmp := 0#32, tickPending := false, trace := [], agenda := [] } := by
  have haccepted := ((cfgWellFormed_iff _).mp cfgWellFormed_resetCfg).1
  simp [State.reset, takeReset, haccepted]

/-- Settles O42: the reset state is one that RESET leaves, with nothing scheduled. -/
theorem resetStateIsSafe : Obligations.ResetStateIsSafe := by
  have hsafe : Safe (takeReset Config.resetCfg State.reset) :=
    takeReset_safe cfgWellFormed_resetCfg (by simp [RespectfulAgenda, State.reset])
  have hreset : takeReset Config.resetCfg State.reset = State.reset :=
    (reset_eq_takeReset State.reset).symm
  rw [hreset] at hsafe
  exact ⟨hsafe.1, hsafe⟩

/-- With nothing scheduled the step is the core's, and leaves the agenda empty. -/
theorem step_of_agenda_nil {s : State} (h : s.agenda = []) : step s = coreTurn s := by
  have hpop : popTurn s = s := by
    obtain ⟨pw, dir, phase, mode, st, lo, hi, base, cmp, tick, ov, cr, tr, ag⟩ := s
    subst h
    rfl
  rw [step_of_head (headTurn_nil h), hpop]
  rfl

/-- Settles O17: the values are read off, and the step is WAIT because the state is quiescent. -/
theorem resetStateValues : Obligations.ResetStateValues :=
  ⟨reset_eq_takeReset, rfl, rfl, rfl, rfl, rfl, rfl,
    (step_of_agenda_nil rfl).trans (coreTurn_quiescent rfl rfl)⟩

/-! ### A whole service -/

/-- A scheduled turn of the core is taken off the agenda, and the core moves. -/
theorem step_core_cons {s : State} {rest : List Turn} (h : s.agenda = .core :: rest) :
    step s = coreTurn { s with agenda := rest } := by
  have hpop : popTurn s = { s with agenda := rest } := by simp [popTurn, h]
  rw [step_of_head (headTurn_cons h), hpop]
  rfl

theorem run_one (s : State) : run 1 s = step s := by
  rw [run_succ]
  cases step s <;> rfl

/-- A complete tick service is ACK, the advance of the pair, and CMPWR in turn
(41_period_tick_driver.md R86). -/
theorem run_service {s : State} {rest : List Turn} (hr : s.configRefused = false)
    (hp : s.phase = .idle) (ht : s.tickPending = true) (ha : s.agenda = serviceTurns ++ rest) :
    run 3 s =
      execCmpwr (applyAdvance s.dir s.cfgMode (enterService { s with agenda := rest })) := by
  have hack : step s = .next (enterService { s with agenda := .core :: .core :: rest }) := by
    rw [step_core_cons ha]
    exact coreTurn_pending hr hp ht
  have hadv : step (enterService { s with agenda := .core :: .core :: rest })
      = .next (applyAdvance s.dir s.cfgMode (enterService { s with agenda := .core :: rest })) := by
    rw [step_core_cons rfl]
    exact coreTurn_acked hr rfl
  rw [run_succ_next hack, run_succ_next hadv, run_one, step_core_cons rfl]
  exact coreTurn_advanced hr rfl

/-- A Static-mode advance from a pulse width not above `HI` writes nothing but `PHASE`
(40_waveform_generator.md R70). -/
theorem applyAdvance_static_of_le {s : State} (hmode : s.cfgMode = .static)
    (h : s.pw.toInt ≤ s.cfgHi.toInt) :
    applyAdvance s.dir s.cfgMode s = setPhase .advanced s := by
  rw [hmode]
  simp [applyAdvance, min_eq_left h, setPair]

/-- A word is the word of its unsigned value. -/
theorem toWord_of_toNat (w : Word) : toWord (w.toNat : Int) = w := by
  simp [toWord]

/-- In Static mode, with the pulse width not above `HI`, a complete tick service is ACK, a change of
`PHASE`, and CMPWR (10_state.md R24). -/
theorem run_service_static_of_le {s : State} {rest : List Turn} (hr : s.configRefused = false)
    (hp : s.phase = .idle) (ht : s.tickPending = true) (ha : s.agenda = serviceTurns ++ rest)
    (hmode : s.cfgMode = .static) (hle : s.pw.toInt ≤ s.cfgHi.toInt) :
    run 3 s = execCmpwr (setPhase .advanced (enterService { s with agenda := rest })) := by
  rw [run_service hr hp ht ha]
  exact congrArg execCmpwr
    (applyAdvance_static_of_le (s := enterService { s with agenda := rest }) hmode hle)

/-- Settles O30: in the service only CMPWR writes a register other than `PHASE` and the pending bit, and
it writes the value that `CMP` holds. -/
theorem staticServiceRewritesTheSameValue : Obligations.StaticServiceRewritesTheSameValue := by
  intro s rest hr hp ht ha hmode hle hcmp hfits
  have hvalue : compareValue (setPhase .advanced (enterService { s with agenda := rest }))
      = (s.cmp.toNat : Int) := hcmp.symm
  rw [run_service_static_of_le hr hp ht ha hmode hle, execCmpwr_of_fits (by omega) (by omega),
    hvalue, toWord_of_toNat]
  simp [leaveService, cmpWrite, emit, setPhase, enterService, tickAck, hp]

end Sys2Proof.Machine

/-!
PROOFS, memory (20_memory.md): the events a step emits and what they leave in `CMP` (R32), the
alternation of the trace (R38), and that no agent reads `CMP` (R16).
-/

namespace Sys2Proof.Machine

/-! ### The last value written in a trace -/

@[simp] theorem lastCmp_nil : lastCmp [] = none := rfl

theorem lastCmp_cons (e : Event) (l : List Event) :
    lastCmp (e :: l) = (lastCmp l).or (lastCmp [e]) := by
  cases hl : lastCmp l with
  | none => cases e <;> simp [lastCmp, hl]
  | some v => simp [lastCmp, hl]

/-- A later event decides before an earlier one. -/
theorem lastCmp_append (a b : List Event) : lastCmp (a ++ b) = (lastCmp b).or (lastCmp a) := by
  induction a with
  | nil => simp
  | cons e a ih => rw [List.cons_append, lastCmp_cons, ih, lastCmp_cons e a, Option.or_assoc]

/-- What the events `a ++ b` leave in `CMP` is what `b` leaves there after `a`. -/
theorem lastCmp_append_getD (a b : List Event) (v : Word) :
    (lastCmp (a ++ b)).getD v = (lastCmp b).getD ((lastCmp a).getD v) := by
  rw [lastCmp_append, Option.getD_or]

/-! ### `CMP` is written by its events and read by nothing -/

/-- `other` is the outcome `o` of a run from `s` but for `CMP`: where `o` is a state, the run emitted
events that alone decide `CMP`, which started as `CMP` of `s` in `o` and as `v` in `other`. -/
def SameButForCmp (s : State) (v : Word) (o other : Host.Outcome State Fault Refusal) : Prop :=
  match o with
  | .next t =>
    ∃ ev : List Event, t.trace = s.trace ++ ev
      ∧ other = .next { t with cmp := (lastCmp ev).getD v }
      ∧ t.cmp = (lastCmp ev).getD s.cmp
  | .fault f => other = .fault f
  | .refused r => other = .refused r

/-- An outcome in which nothing was emitted and `CMP` was left alone. -/
theorem SameButForCmp.of_silent {s t : State} {v : Word} (htrace : t.trace = s.trace)
    (hcmp : t.cmp = s.cmp) : SameButForCmp s v (.next t) (.next { t with cmp := v }) :=
  ⟨[], by rw [htrace, List.append_nil], rfl, hcmp⟩

theorem execCmpwr_sameButForCmp (s : State) (v : Word) :
    SameButForCmp s v (execCmpwr s) (execCmpwr { s with cmp := v }) := by
  by_cases hfits : 0 ≤ compareValue s ∧ compareValue s ≤ 2147483647
  · rw [execCmpwr_of_fits hfits.1 hfits.2,
      execCmpwr_of_fits (s := { s with cmp := v }) hfits.1 hfits.2]
    exact ⟨[.cmp (toWord (compareValue s))], rfl, rfl, rfl⟩
  · rw [execCmpwr_refused hfits, execCmpwr_refused (s := { s with cmp := v }) hfits]
    rfl

/-- By phase: only ACK and CMPWR emit, only CMPWR writes `CMP`, and none looks at it. -/
theorem coreTurn_sameButForCmp (s : State) (v : Word) :
    SameButForCmp s v (coreTurn s) (coreTurn { s with cmp := v }) := by
  obtain ⟨pw, dir, phase, mode, st, lo, hi, base, cmp, tick, ov, refused, tr, ag⟩ := s
  rw [coreTurn_eq, coreTurn_eq]
  cases refused with
  | true => rfl
  | false =>
    cases phase with
    | idle =>
      cases tick with
      | true => exact ⟨[.ack], rfl, rfl, rfl⟩
      | false => exact .of_silent rfl rfl
    | acked => exact .of_silent rfl rfl
    | advanced => exact execCmpwr_sameButForCmp _ v
    | reserved => rfl

theorem takeTurn_sameButForCmp (x : Turn) (s : State) (v : Word) :
    SameButForCmp s v (takeTurn x s) (takeTurn x { s with cmp := v }) := by
  cases x with
  | core => exact coreTurn_sameButForCmp s v
  | period => exact .of_silent (takePeriod_trace s) (takePeriod_cmp s)
  | reset c => exact .of_silent (takeReset_trace c s) (takeReset_cmp c s)

/-- One step, from a state and from the same state with another value in `CMP`. -/
theorem step_sameButForCmp (s : State) (v : Word) :
    SameButForCmp s v (step s) (step { s with cmp := v }) :=
  takeTurn_sameButForCmp (headTurn s) (popTurn s) v

/-- A step emits events that alone decide what `CMP` holds after it. -/
theorem step_emits {s t : State} (h : step s = .next t) :
    ∃ ev : List Event, t.trace = s.trace ++ ev ∧ t.cmp = (lastCmp ev).getD s.cmp := by
  have hsame := step_sameButForCmp s s.cmp
  rw [h] at hsame
  obtain ⟨ev, htrace, -, hcmp⟩ := hsame
  exact ⟨ev, htrace, hcmp⟩

/-- Settles O47: the step's own events decide `CMP`, and where they write nothing the earlier trace
does. -/
theorem cmpHoldsTheLastValueWritten : Obligations.CmpHoldsTheLastValueWritten := by
  intro s t hs h v hv
  obtain ⟨ev, htrace, hcmp⟩ := step_emits h
  rw [htrace, lastCmp_append] at hv
  rw [hcmp]
  cases hev : lastCmp ev with
  | none => exact hs v (by simpa [hev] using hv)
  | some w => simpa [hev] using hv

/-- Events of a step followed by those of the run after it. -/
theorem SameButForCmp.trans {s t : State} {v : Word} {ev : List Event}
    {o other : Host.Outcome State Fault Refusal} (htrace : t.trace = s.trace ++ ev)
    (hcmp : t.cmp = (lastCmp ev).getD s.cmp)
    (h : SameButForCmp t ((lastCmp ev).getD v) o other) : SameButForCmp s v o other := by
  cases o with
  | next u =>
    obtain ⟨ev', htrace', hother, hcmp'⟩ := h
    exact ⟨ev ++ ev', by rw [htrace', htrace, List.append_assoc],
      by rw [lastCmp_append_getD, hother], by rw [lastCmp_append_getD, hcmp', hcmp]⟩
  | fault f => exact h
  | refused r => exact h

theorem run_sameButForCmp (k : Nat) (s : State) (v : Word) :
    SameButForCmp s v (run k s) (run k { s with cmp := v }) := by
  induction k generalizing s v with
  | zero => exact .of_silent rfl rfl
  | succ k ih =>
    have hstep := step_sameButForCmp s v
    rw [run_succ, run_succ]
    cases hs : step s with
    | next t =>
      rw [hs] at hstep
      obtain ⟨ev, htrace, hother, hcmp⟩ := hstep
      rw [hother]
      exact .trans htrace hcmp (ih t _)
    | fault f => cases f
    | refused r =>
      rw [hs] at hstep
      have hother : step { s with cmp := v } = .refused r := hstep
      rw [hother]
      rfl

/-- Settles O40, by the induction of `run_sameButForCmp` on the length of the run. -/
theorem cmpIsNeverRead : Obligations.CmpIsNeverRead := by
  intro k s v
  have h := run_sameButForCmp k s v
  cases hrun : run k s with
  | next t => rw [hrun] at h; exact h
  | fault f => rw [hrun] at h; exact h
  | refused r => rw [hrun] at h; exact h

/-! ### The alternation of the trace -/

@[simp] theorem endsInAck_concat (l : List Event) (e : Event) :
    endsInAck (l ++ [e]) = (e == .ack) := by
  simp [endsInAck]

/-- Whether a `Cmp` is due after the events of `l`, when `waiting` says so before them. -/
def waitingAfter (waiting : Bool) (l : List Event) : Bool :=
  l.foldl (fun _ e => e == .ack) waiting

theorem waitingAfter_false (l : List Event) : waitingAfter false l = endsInAck l := by
  induction l using List.reverseRecOn with
  | nil => rfl
  | append_singleton l e => simp [waitingAfter]

/-- A trace alternates exactly when its first part does and the rest goes on from there. -/
theorem alternates_append (waiting : Bool) (a b : List Event) :
    alternates waiting (a ++ b) =
      (alternates waiting a && alternates (waitingAfter waiting a) b) := by
  induction a generalizing waiting with
  | nil => simp [alternates, waitingAfter]
  | cons e a ih =>
    cases waiting with
    | false =>
      cases e with
      | ack => exact ih true
      | cmp v => rfl
    | true =>
      cases e with
      | ack => rfl
      | cmp v => exact ih false

theorem alternates_concat_ack {l : List Event} (h : alternates false l = true)
    (hlast : endsInAck l = false) : alternates false (l ++ [.ack]) = true := by
  rw [alternates_append, waitingAfter_false, h, hlast]
  rfl

theorem alternates_concat_cmp {l : List Event} (h : alternates false l = true)
    (hlast : endsInAck l = true) (v : Word) : alternates false (l ++ [.cmp v]) = true := by
  rw [alternates_append, waitingAfter_false, h, hlast]
  rfl

/-- The trace alternates, and its last event is an `Ack` exactly while a service is in progress
(20_memory.md R38). -/
def TraceFollowsPhase (s : State) : Prop :=
  alternates false s.trace = true
    ∧ endsInAck s.trace = decide (s.phase = .acked ∨ s.phase = .advanced)

/-- ACK adds an `Ack` where no service was in progress, CMPWR a `Cmp` where one was; WAIT and ADV emit
nothing and neither begin nor end a service. -/
theorem coreTurn_traceFollowsPhase {s t : State} (hs : TraceFollowsPhase s)
    (h : coreTurn s = .next t) : TraceFollowsPhase t := by
  obtain ⟨halt, hlast⟩ := hs
  obtain ⟨-, ⟨-, -, rfl⟩ | ⟨hp, -, rfl⟩ | ⟨hp, rfl⟩ | ⟨hp, -, -, rfl⟩⟩ := coreTurn_next h
  · exact ⟨halt, hlast⟩
  · have hidle : endsInAck s.trace = false := by simp [hlast, hp]
    exact ⟨alternates_concat_ack halt hidle, by simp⟩
  · exact ⟨halt, by simp [hlast, hp]⟩
  · have hservice : endsInAck s.trace = true := by simp [hlast, hp]
    exact ⟨alternates_concat_cmp halt hservice _, by simp⟩

/-- Settles O46: PERIOD touches neither the trace nor `PHASE`, the core keeps the two together, and no
RESET is scheduled. -/
theorem everyStepKeepsTheTraceAlternating : Obligations.EveryStepKeepsTheTraceAlternating := by
  intro s t hahead halt hlast h
  have hahead' : NoResetAhead t := by
    intro x hx
    rw [step_agenda h] at hx
    exact hahead x (List.mem_of_mem_tail hx)
  refine ⟨hahead', ?_⟩
  obtain ⟨-, hc⟩ | ⟨-, rfl⟩ | ⟨c, hh, -⟩ := step_next h
  · exact coreTurn_traceFollowsPhase (s := popTurn s) ⟨halt, hlast⟩ hc
  · exact ⟨halt, hlast⟩
  · cases hahead _ (mem_of_headTurn_reset hh)

end Sys2Proof.Machine

/-!
PROOFS, encoding (30_encoding.md): the fields of the control word (R46), decode and encode (R50), the
rows of the decode table, the operation a step of the core runs, and the sign of the step (R53).
-/

namespace Sys2Proof.Machine

/-! ### Decode and encode -/

/-- The operation decoded from a packed control word is the one its four fields select. -/
theorem decodeCtrl_pack (p : Phase) (t : Bool) (m : Mode) (d : Direction) :
    decodeCtrl (packControlWord p t m d) = selectOperation p t m d := by
  simp [decodeCtrl]

/-- The four fields of a control word, packed again, are the word: no bit is dropped. -/
theorem pack_ctrl_fields (c : BitVec 5) :
    packControlWord (ctrlPhase c) (ctrlTick c) (ctrlMode c) (ctrlDir c) = c :=
  controlWord_withControlWord c State.reset

/-- The operation that four fields select carries those of the fields its row leaves free, and the row
fixes the others (30_encoding.md R50). -/
theorem encode_selectOperation (p : Phase) (t : Bool) (m : Mode) (d : Direction) :
    encode (selectOperation p t m d) = packControlWord p t m d := by
  cases p with
  | idle => cases t <;> rfl
  | acked =>
    cases m with
    | static => rfl
    | sweep => cases d <;> rfl
  | advanced => rfl
  | reserved => rfl

@[simp] theorem decodeCtrl_encode (i : Instr) : decodeCtrl (encode i) = i := by
  cases i <;> exact decodeCtrl_pack _ _ _ _

@[simp] theorem encode_decodeCtrl (c : BitVec 5) : encode (decodeCtrl c) = c :=
  (encode_selectOperation _ _ _ _).trans (pack_ctrl_fields c)

/-- Settles O3: each direction is its own lemma above. -/
theorem decodeEncodeAgree : Obligations.DecodeEncodeAgree :=
  ⟨decodeCtrl_encode, encode_decodeCtrl⟩

/-! ### The decode table -/

/-- Of the seven rows the encoding of an operation selects the one of its own name, and no other. -/
theorem selectedRows_encode (i : Instr) :
    (opcodeRows.filter (fun r => r.selects (encode i))).map (fun r => r.name) = [i.mnemonic] := by
  cases i with
  | wait m d => cases m <;> cases d <;> rfl
  | ack m d => cases m <;> cases d <;> rfl
  | advStatic t d => cases t <;> cases d <;> rfl
  | advRise t => cases t <;> rfl
  | advFall t => cases t <;> rfl
  | cmpwr t m d => cases t <;> cases m <;> cases d <;> rfl
  | rsvd t m d => cases t <;> cases m <;> cases d <;> rfl

/-- Settles O1: every control word is the encoding of the operation decoded from it, so it selects the
row of that operation; the rows and the numbers of their words are read off the table. -/
theorem everyControlWordSelectsOneRow : Obligations.EveryControlWordSelectsOneRow := by
  refine ⟨rfl, fun c => ?_, by decide⟩
  have h := selectedRows_encode (decodeCtrl c)
  rw [encode_decodeCtrl] at h
  exact h

/-! ### The layout of the control word -/

/-- Bits 4:3 of a control word are the code of the phase they stand for (30_encoding.md R47). -/
theorem code_ctrlPhase (c : BitVec 5) : (ctrlPhase c).code = c.extractLsb' 3 2 := by
  revert c
  decide

theorem ofBit_eq_sweep_iff (b : Bool) : Mode.ofBit b = .sweep ↔ b = true := by
  cases b <;> decide

theorem ofBit_eq_falling_iff (b : Bool) : Direction.ofBit b = .falling ↔ b = true := by
  cases b <;> decide

theorem controlWord_phaseBits (s : State) : (controlWord s).extractLsb' 3 2 = s.phase.code := by
  rw [← code_ctrlPhase, controlWord, ctrlPhase_pack]

theorem controlWord_tickBit (s : State) : (controlWord s).getLsbD 2 = s.tickPending :=
  ctrlTick_pack s.phase s.tickPending s.cfgMode s.dir

theorem controlWord_modeBit (s : State) :
    (controlWord s).getLsbD 1 = true ↔ s.cfgMode = .sweep := by
  rw [← ofBit_eq_sweep_iff]
  exact Eq.congr_left (ctrlMode_pack s.phase s.tickPending s.cfgMode s.dir)

theorem controlWord_dirBit (s : State) :
    (controlWord s).getLsbD 0 = true ↔ s.dir = .falling := by
  rw [← ofBit_eq_falling_iff]
  exact Eq.congr_left (ctrlDir_pack s.phase s.tickPending s.cfgMode s.dir)

/-- Settles O2: one lemma per field, each from the reading of that field back from the packed word. -/
theorem controlWordLayout : Obligations.ControlWordLayout := by
  intro s
  refine ⟨?_, controlWord_tickBit s, ?_, ?_⟩
  · rw [controlWord_phaseBits]
    cases s.phase <;> rfl
  · rw [Bool.eq_iff_iff, decide_eq_true_iff]
    exact controlWord_modeBit s
  · rw [Bool.eq_iff_iff, decide_eq_true_iff]
    exact controlWord_dirBit s

/-! ### Words of the table as numbers -/

/-- A number is decoded exactly when its low bits are a control word, and then as that word. -/
theorem decodeTableWord_eq_some_iff (nbits w : Nat) (i : Instr) :
    decodeTableWord nbits w = some i ↔
      w % 2 ^ nbits < 32 ∧ decodeCtrl (BitVec.ofNat 5 (w % 2 ^ nbits)) = i := by
  unfold decodeTableWord decodeWord
  split_ifs with hw <;> simp [hw]

/-- The encoding of an operation, as a number, is decoded to the operation. -/
theorem decodeTableWord_encode (i : Instr) : decodeTableWord 8 (encode i).toNat = some i := by
  have hlt : (encode i).toNat < 32 := (encode i).isLt
  have hmod : (encode i).toNat % 2 ^ 8 = (encode i).toNat := Nat.mod_eq_of_lt (by omega)
  rw [decodeTableWord_eq_some_iff, hmod, BitVec.ofNat_toNat, BitVec.setWidth_eq]
  exact ⟨hlt, decodeCtrl_encode i⟩

/-- A number whose low bits are no control word is rejected. -/
theorem decodeTableWord_of_ge {nbits w : Nat} (h : 32 ≤ w % 2 ^ nbits) :
    decodeTableWord nbits w = none := by
  rw [Option.eq_none_iff_forall_ne_some]
  intro i hi
  have hlt := ((decodeTableWord_eq_some_iff nbits w i).mp hi).1
  omega

/-- Settles O4: each word written out is the encoding of its operation, and 32 is too wide. -/
theorem tableWordsDecode : Obligations.TableWordsDecode :=
  ⟨decodeTableWord_encode (.wait .sweep .falling),
    decodeTableWord_encode (.ack .sweep .rising),
    decodeTableWord_encode (.advStatic true .falling),
    decodeTableWord_encode (.advRise false),
    decodeTableWord_encode (.advFall true),
    decodeTableWord_encode (.cmpwr false .static .falling),
    decodeTableWord_encode (.rsvd false .static .rising),
    decodeTableWord_of_ge (by decide)⟩

/-! ### The operation a step of the core runs -/

theorem coreTurn_of_not_refused {s : State} (hr : s.configRefused = false) :
    coreTurn s = exec (decodeCtrl (controlWord s)) s := by
  simp [coreTurn, hr]

theorem withFetchWord_agenda (s : State) (nbits w : Nat) :
    (s.withFetchWord nbits w).agenda = .core :: s.agenda := rfl

theorem withFetchWord_configRefused (s : State) (nbits w : Nat) :
    (s.withFetchWord nbits w).configRefused = s.configRefused := rfl

/-- The control word of a state made by `withFetchWord` is the word placed there. -/
theorem controlWord_withFetchWord (s : State) (nbits w : Nat) :
    controlWord (s.withFetchWord nbits w) = BitVec.ofNat 5 (w % 2 ^ nbits) :=
  controlWord_withControlWord _ s

/-- A scheduled turn of the core runs the operation that the control word selects; the agenda is no part
of the control word. -/
theorem step_core_cons_eq_exec {s : State} {rest : List Turn} (hr : s.configRefused = false)
    (ha : s.agenda = .core :: rest) :
    step s = exec (decodeCtrl (controlWord s)) { s with agenda := rest } :=
  (step_core_cons ha).trans (coreTurn_of_not_refused (s := { s with agenda := rest }) hr)

/-- Settles O5: the turn is the core's in all three cases, and `withFetchWord` places both the turn and
the control word. -/
theorem stepRunsDecodedOperation : Obligations.StepRunsDecodedOperation := by
  refine ⟨fun s hr ha => ?_, fun s rest hr ha => step_core_cons_eq_exec hr ha,
    fun s w i hr hi => ?_⟩
  · rw [step_of_agenda_nil ha, coreTurn_of_not_refused hr]
  · have hdecode : decodeCtrl (controlWord (s.withFetchWord 8 w)) = i := by
      rw [controlWord_withFetchWord]
      exact ((decodeTableWord_eq_some_iff 8 w i).mp hi).2
    refine ⟨?_, hdecode⟩
    rw [step_core_cons_eq_exec ((withFetchWord_configRefused s 8 w).trans hr)
      (withFetchWord_agenda s 8 w), hdecode]

/-! ### The sign of the step -/

theorem signedStep_rising (st : Int) : signedStep .rising st = |st| := magnitude_eq_abs st

theorem signedStep_falling (st : Int) : signedStep .falling st = -|st| :=
  congrArg Neg.neg (magnitude_eq_abs st)

/-- `advance` reads of the step only its magnitude (30_encoding.md R53). -/
theorem advance_congr_magnitude {st st' : Int} (h : magnitude st' = magnitude st) (lo hi c : Int)
    (d : Direction) (m : Mode) : advance lo hi c d st' m = advance lo hi c d st m := by
  have htentative : tentative c d st' = tentative c d st := by
    cases d <;> simp [h]
  cases m with
  | static => rfl
  | sweep => simp [advance, htentative]

/-- Another step of the same magnitude in `CFG_STEP` is kept by the advance and changes nothing else. -/
theorem applyAdvance_withStep {s : State} {w : Word}
    (h : magnitude w.toInt = magnitude s.cfgStep.toInt) (d : Direction) (m : Mode) :
    applyAdvance d m { s with cfgStep := w } = { applyAdvance d m s with cfgStep := w } := by
  simp [applyAdvance, advance_congr_magnitude h, setPhase, setPair]

/-- `other` is the outcome `o` but for the stored step, which is `w` where there is a next state. -/
def SameButForStep (w : Word) (o other : Host.Outcome State Fault Refusal) : Prop :=
  match o with
  | .next t => other = .next { t with cfgStep := w }
  | .fault f => other = .fault f
  | .refused r => other = .refused r

/-- The compare value is `BASE + PW`, so CMPWR does not read the step (41_period_tick_driver.md R89). -/
theorem execCmpwr_sameButForStep (s : State) (w : Word) :
    SameButForStep w (execCmpwr s) (execCmpwr { s with cfgStep := w }) := by
  by_cases hfits : 0 ≤ compareValue s ∧ compareValue s ≤ 2147483647
  · rw [execCmpwr_of_fits hfits.1 hfits.2,
      execCmpwr_of_fits (s := { s with cfgStep := w }) hfits.1 hfits.2]
    rfl
  · rw [execCmpwr_refused hfits, execCmpwr_refused (s := { s with cfgStep := w }) hfits]
    rfl

/-- Every operation does the same for another step of the same magnitude: only the two Sweep-mode
advances read the step, and only its magnitude. -/
theorem exec_sameButForStep {s : State} {w : Word}
    (h : magnitude w.toInt = magnitude s.cfgStep.toInt) (i : Instr) :
    SameButForStep w (exec i s) (exec i { s with cfgStep := w }) := by
  cases i with
  | wait m d => rfl
  | ack m d => rfl
  | advStatic b d => exact congrArg Host.Outcome.next (applyAdvance_withStep h s.dir .static)
  | advRise b => exact congrArg Host.Outcome.next (applyAdvance_withStep h .rising .sweep)
  | advFall b => exact congrArg Host.Outcome.next (applyAdvance_withStep h .falling .sweep)
  | cmpwr b m d => exact execCmpwr_sameButForStep s w
  | rsvd b m d => rfl

/-- The negation of a word that is not the most negative one is not the most negative one. -/
theorem word_neg_toInt_ne {w : Word} (h : w.toInt ≠ -2147483648) :
    (-w).toInt ≠ -2147483648 := by
  have hrange := word_toInt_range w
  rw [word_neg_toInt h]
  omega

/-- WF1 to WF4 read of the step its magnitude, and that it is not the most negative word, which
negation keeps (00_scope.md R6). -/
theorem cfgAccepted_neg_step {c : Cfg} (h : c.step.toInt ≠ -2147483648) :
    cfgAccepted { c with step := -c.step } = cfgAccepted c := by
  rw [Bool.eq_iff_iff, cfgAccepted, cfgAccepted, wfCore_word_iff, wfCore_word_iff]
  simp [magnitude_word_neg h, word_neg_toInt_ne h, h]

/-- WF3 excludes the step whose magnitude is not representable (00_scope.md R6). -/
theorem cfgAccepted_most_negative_step {c : Cfg} (h : c.step.toInt = -2147483648) :
    cfgAccepted c = false := by
  rw [Bool.eq_false_iff, Ne, cfgAccepted, wfCore_word_iff]
  rintro ⟨-, -, ⟨-, -, hne⟩, -⟩
  exact hne h

/-- RESET reads the step only to latch it and to judge the configuration (70_reset_and_hazards.md
R120). -/
theorem takeReset_withStep {c : Cfg} {w : Word}
    (h : cfgAccepted { c with step := w } = cfgAccepted c) (s : State) :
    takeReset { c with step := w } s = { takeReset c s with cfgStep := w } := by
  simp [takeReset, h]

/-- Settles O22: a word and its negation have the same magnitude, which is all that the operations and
the well-formedness read of the step. -/
theorem stepSignNeverMatters : Obligations.StepSignNeverMatters := by
  refine ⟨fun st => ⟨signedStep_rising st, signedStep_falling st⟩, fun i s hs => ?_,
    fun c hc => ⟨cfgAccepted_neg_step hc, takeReset_withStep (cfgAccepted_neg_step hc)⟩,
    fun c hc => cfgAccepted_most_negative_step hc⟩
  have hsame := exec_sameButForStep (magnitude_word_neg hs) i
  cases hexec : exec i s with
  | next t => rw [hexec] at hsame; exact hsame
  | fault f => rw [hexec] at hsame; exact hsame
  | refused r => rw [hexec] at hsame; exact hsame

end Sys2Proof.Machine

/-!
PROOFS, waveform generator (40_waveform_generator.md): the branches of `advance` (R61, R62, R66), its
bounds for any number of applications (R69), the monotonic segments and the turn at a bound (R71, R74),
the step of 0 (R72), the three ADV operations (R63 to R65) and the arithmetic range (R67), the state
after any number of serviced periods, and the triangle wave (R73).
-/

namespace Sys2Proof.Machine

/-! ### The branches of a Sweep-mode advance -/

/-- The upper test is made first, touch or exceed (40_waveform_generator.md R66). -/
theorem advance_sweep_of_hi_le {lo hi c st : Int} {d : Direction} (h : hi ≤ tentative c d st) :
    advance lo hi c d st .sweep = (hi, .falling) := by
  obtain ⟨_, e⟩ | ⟨_, _, _⟩ | ⟨_, _, _⟩ := advance_sweep_cases lo hi c st d
  · exact e
  · omega
  · omega

/-- The lower test, touch or exceed, where the upper one failed (40_waveform_generator.md R66). -/
theorem advance_sweep_of_le_lo {lo hi c st : Int} {d : Direction} (hhi : tentative c d st < hi)
    (hlo : tentative c d st ≤ lo) : advance lo hi c d st .sweep = (lo, .rising) := by
  obtain ⟨_, _⟩ | ⟨_, _, e⟩ | ⟨_, _, _⟩ := advance_sweep_cases lo hi c st d
  · omega
  · exact e
  · omega

/-- Strictly between the bounds the tentative value and the direction stand
(40_waveform_generator.md R66). -/
theorem advance_sweep_of_between {lo hi c st : Int} {d : Direction} (hlo : lo < tentative c d st)
    (hhi : tentative c d st < hi) : advance lo hi c d st .sweep = (tentative c d st, d) := by
  obtain ⟨_, _⟩ | ⟨_, _, _⟩ | ⟨_, _, e⟩ := advance_sweep_cases lo hi c st d
  · omega
  · omega
  · exact e

/-- The tentative value with the magnitude written as the spec writes it
(40_waveform_generator.md R62). -/
theorem tentative_eq_abs (c st : Int) (d : Direction) :
    tentative c d st = c + (if d = .rising then |st| else -|st|) := by
  cases d with
  | rising => exact congrArg (c + ·) (signedStep_rising st)
  | falling => exact congrArg (c + ·) (signedStep_falling st)

/-- Settles O18: Static mode answers the minimum with `HI`, which is idempotent. -/
theorem staticAdvanceClampsAboveOnly : Obligations.StaticAdvanceClampsAboveOnly := by
  intro lo hi w step d
  refine ⟨advance_static lo hi w step d, fun lo' step' => ?_⟩
  rw [advance_static, advance_static, min_eq_left (min_le_right w hi)]

/-- Settles O19: one branch lemma for each outcome of the two tests. -/
theorem sweepAdvanceSaturates : Obligations.SweepAdvanceSaturates := by
  intro lo hi w step d
  rw [← tentative_eq_abs]
  dsimp only
  split_ifs with hhi hlo
  · exact advance_sweep_of_hi_le hhi
  · exact advance_sweep_of_le_lo (not_le.mp hhi) hlo
  · exact advance_sweep_of_between (not_le.mp hlo) (not_le.mp hhi)

/-! ### The bounds, for any number of applications -/

@[simp] theorem iterateAdvance_zero (lo hi st : Int) (m : Mode) (r : Int × Direction) :
    iterateAdvance lo hi st m 0 r = r := rfl

/-- One more application, after the others (41_period_tick_driver.md R92). -/
theorem iterateAdvance_succ (lo hi st : Int) (m : Mode) (n : Nat) (r : Int × Direction) :
    iterateAdvance lo hi st m (n + 1) r =
      advance lo hi (iterateAdvance lo hi st m n r).1 (iterateAdvance lo hi st m n r).2 st m := rfl

/-- Static mode never clamps below, so it keeps a value that is not below `LO` there. -/
theorem le_iterateAdvance_static {lo hi : Int} (h : lo ≤ hi) (st : Int) (n : Nat)
    {r : Int × Direction} (hr : lo ≤ r.1) : lo ≤ (iterateAdvance lo hi st .static n r).1 := by
  induction n with
  | zero => exact hr
  | succ n ih =>
    rw [iterateAdvance_succ, advance_static]
    exact le_min ih h

/-- After one or more applications the value lies between the bounds, in Static mode if it did not
start below `LO` (40_waveform_generator.md R69). -/
theorem iterateAdvance_succ_bounds {lo hi : Int} (h : lo ≤ hi) (n : Nat) (st : Int) (m : Mode)
    (r : Int × Direction) (hr : m = .static → lo ≤ r.1) :
    lo ≤ (iterateAdvance lo hi st m (n + 1) r).1
      ∧ (iterateAdvance lo hi st m (n + 1) r).1 ≤ hi := by
  rw [iterateAdvance_succ]
  cases m with
  | static =>
    rw [advance_static]
    exact ⟨le_min (le_iterateAdvance_static h st n (hr rfl)) h, min_le_right _ _⟩
  | sweep => exact advance_sweep_bounds h _ st _

/-- A value between the bounds stays there in either mode, for any number of applications. -/
theorem iterateAdvance_bounds {lo hi : Int} {r : Int × Direction} (hlo : lo ≤ r.1) (hhi : r.1 ≤ hi)
    (n : Nat) (st : Int) (m : Mode) :
    lo ≤ (iterateAdvance lo hi st m n r).1 ∧ (iterateAdvance lo hi st m n r).1 ≤ hi := by
  cases n with
  | zero => exact ⟨hlo, hhi⟩
  | succ n => exact iterateAdvance_succ_bounds (hlo.trans hhi) n st m r fun _ => hlo

/-- Settles O20: the two modes of one application, and the induction of `le_iterateAdvance_static`. -/
theorem advanceStaysInBounds : Obligations.AdvanceStaysInBounds := by
  intro lo hi h
  refine ⟨fun w step d => advance_sweep_bounds h w step d, fun w step d => ?_,
    iterateAdvance_succ_bounds h⟩
  rw [advance_static]
  exact ⟨min_le_right w hi, by rw [le_min_iff, and_iff_left h]⟩

/-! ### Monotonic segments, and the turn at a bound -/

/-- The value of a Sweep-mode advance is the tentative value clamped between the bounds
(40_waveform_generator.md R66). -/
theorem advance_sweep_fst {lo hi : Int} (h : lo ≤ hi) (c st : Int) (d : Direction) :
    (advance lo hi c d st .sweep).1 = max lo (min (tentative c d st) hi) := by
  obtain ⟨_, e⟩ | ⟨_, _, e⟩ | ⟨_, _, e⟩ := advance_sweep_cases lo hi c st d <;>
    rw [e] <;> dsimp only <;> omega

theorem le_advance_rising {lo hi c : Int} (h : lo ≤ hi) (hc : c ≤ hi) (st : Int) :
    c ≤ (advance lo hi c .rising st .sweep).1 := by
  have hm := magnitude_nonneg st
  rw [advance_sweep_fst h, tentative_rising]
  omega

theorem advance_falling_le {lo hi c : Int} (h : lo ≤ hi) (hc : lo ≤ c) (st : Int) :
    (advance lo hi c .falling st .sweep).1 ≤ c := by
  have hm := magnitude_nonneg st
  rw [advance_sweep_fst h, tentative_falling]
  omega

theorem magnitude_pos {st : Int} (h : st ≠ 0) : 0 < magnitude st :=
  lt_of_le_of_ne (magnitude_nonneg st) fun h0 => h ((magnitude_eq_zero_iff st).mp h0.symm)

/-- Below `HI` a Rising advance with a step that is not 0 moves strictly upward
(40_waveform_generator.md R71). -/
theorem lt_advance_rising {lo hi c st : Int} (h : lo ≤ hi) (hc : c < hi) (hst : st ≠ 0) :
    c < (advance lo hi c .rising st .sweep).1 := by
  have hm := magnitude_pos hst
  rw [advance_sweep_fst h, tentative_rising]
  omega

/-- Above `LO` a Falling advance with a step that is not 0 moves strictly downward
(40_waveform_generator.md R71). -/
theorem advance_falling_lt {lo hi c st : Int} (h : lo ≤ hi) (hc : lo < c) (hst : st ≠ 0) :
    (advance lo hi c .falling st .sweep).1 < c := by
  have hm := magnitude_pos hst
  rw [advance_sweep_fst h, tentative_falling]
  omega

/-- A Sweep-mode advance that answers `HI` has turned to Falling. -/
theorem advance_sweep_dir_of_eq_hi {lo hi c st : Int} {d : Direction} (h : lo < hi)
    (hr : (advance lo hi c d st .sweep).1 = hi) : (advance lo hi c d st .sweep).2 = .falling := by
  obtain ⟨_, e⟩ | ⟨_, _, e⟩ | ⟨_, _, e⟩ := advance_sweep_cases lo hi c st d <;>
    rw [e] at hr ⊢ <;> dsimp only at hr
  · omega
  · omega

/-- A Sweep-mode advance that answers `LO` has turned to Rising. -/
theorem advance_sweep_dir_of_eq_lo {lo hi c st : Int} {d : Direction} (h : lo < hi)
    (hr : (advance lo hi c d st .sweep).1 = lo) : (advance lo hi c d st .sweep).2 = .rising := by
  obtain ⟨_, e⟩ | ⟨_, _, e⟩ | ⟨_, _, e⟩ := advance_sweep_cases lo hi c st d <;>
    rw [e] at hr ⊢ <;> dsimp only at hr
  · omega
  · omega

/-- Settles O21: at a bound the direction has turned inward, where the advance is strict. -/
theorem noCoastAtABound : Obligations.NoCoastAtABound := by
  intro lo hi w step d h _ _ hst r q
  refine ⟨fun hr => ?_, fun hr => ?_⟩
  · have hdir : r.2 = .falling := advance_sweep_dir_of_eq_hi h hr
    refine ⟨hdir, ?_⟩
    simp only [q, hr, hdir]
    exact advance_falling_lt h.le h hst
  · have hdir : r.2 = .rising := advance_sweep_dir_of_eq_lo h hr
    refine ⟨hdir, ?_⟩
    simp only [q, hr, hdir]
    exact lt_advance_rising h.le h hst

/-- At `HI` a Rising advance stays there (40_waveform_generator.md R71). -/
theorem advance_rising_at_hi (lo hi st : Int) :
    advance lo hi hi .rising st .sweep = (hi, .falling) :=
  advance_sweep_of_hi_le (le_add_of_nonneg_right (magnitude_nonneg st))

/-- At `LO` a Falling advance stays there (40_waveform_generator.md R71). -/
theorem advance_falling_at_lo {lo hi : Int} (h : lo ≤ hi) (st : Int) :
    (advance lo hi lo .falling st .sweep).1 = lo :=
  le_antisymm (advance_falling_le h le_rfl st) (advance_sweep_bounds h lo st .falling).1

theorem tentative_zero (c : Int) (d : Direction) : tentative c d 0 = c := by
  rw [tentative_eq_abs]
  simp

/-- With a step of 0 an advance keeps a value between the bounds (40_waveform_generator.md R72). -/
theorem advance_sweep_zero_fst {lo hi c : Int} (hlo : lo ≤ c) (hhi : c ≤ hi) (d : Direction) :
    (advance lo hi c d 0 .sweep).1 = c := by
  rw [advance_sweep_fst (hlo.trans hhi), tentative_zero, min_eq_left hhi, max_eq_right hlo]

/-- The new `PW` is a given word when `advance` answers the value of that word. -/
theorem applyAdvance_pw_eq_iff {d : Direction} {m : Mode} {s : State} {w : Word} :
    (applyAdvance d m s).pw = w ↔
      (advance s.cfgLo.toInt s.cfgHi.toInt s.pw.toInt d s.cfgStep.toInt m).1 = w.toInt := by
  rw [← BitVec.toInt_inj, applyAdvance_pw_toInt]

/-- With a step of 0 in Sweep mode an advance keeps `PW` (40_waveform_generator.md R72). -/
theorem applyAdvance_sweep_zero_pw {s : State} (hst : s.cfgStep = 0#32) (hin : InBounds s)
    (d : Direction) : (applyAdvance d .sweep s).pw = s.pw := by
  rw [applyAdvance_pw_eq_iff, hst]
  exact advance_sweep_zero_fst hin.1 hin.2 d

/-- Settles O24: ADV.RISE and ADV.FALL are the two advances of the lemmas above. -/
theorem segmentsAreMonotonic : Obligations.SegmentsAreMonotonic := by
  intro s t hwf
  refine ⟨fun b h hhi => ?_, fun b h hlo => ?_⟩
  · rw [exec_advRise] at h
    obtain rfl := Host.Outcome.next.inj h
    rw [applyAdvance_pw_toInt]
    refine ⟨le_advance_rising hwf hhi _,
      fun hst hlt => lt_advance_rising hwf hlt (mt (word_toInt_eq_zero_iff _).mp hst),
      fun hpw => ?_, fun hst hin => applyAdvance_sweep_zero_pw hst hin _⟩
    rw [applyAdvance_pw_eq_iff, hpw, advance_rising_at_hi]
  · rw [exec_advFall] at h
    obtain rfl := Host.Outcome.next.inj h
    rw [applyAdvance_pw_toInt]
    refine ⟨advance_falling_le hwf hlo _,
      fun hst hlt => advance_falling_lt hwf hlt (mt (word_toInt_eq_zero_iff _).mp hst),
      fun hpw => ?_, fun hst hin => applyAdvance_sweep_zero_pw hst hin _⟩
    rw [applyAdvance_pw_eq_iff, hpw, advance_falling_at_lo hwf]

/-! ### The operations -/

/-- Settles O8: the shared body in Static mode, which rewrites the direction with its own value. -/
theorem advStaticEffect : Obligations.AdvStaticEffect := by
  intro b d s
  exact ⟨_, exec_advStatic b d s, applyAdvance_pw_toInt s.dir .static s, rfl⟩

/-- The pair that a Sweep-mode advance leaves in the registers, by the two tests
(40_waveform_generator.md R66). -/
theorem applyAdvance_sweep_pair (d : Direction) (s : State) :
    let n := tentative s.pw.toInt d s.cfgStep.toInt
    let t := applyAdvance d .sweep s
    if s.cfgHi.toInt ≤ n then t.pw = s.cfgHi ∧ t.dir = .falling
    else if n ≤ s.cfgLo.toInt then t.pw = s.cfgLo ∧ t.dir = .rising
    else t.pw.toInt = n ∧ t.dir = d := by
  dsimp only
  rw [applyAdvance_pw_eq_iff, applyAdvance_pw_eq_iff, applyAdvance_pw_toInt, applyAdvance_dir]
  split_ifs with hhi hlo
  · rw [advance_sweep_of_hi_le hhi]
    exact ⟨rfl, rfl⟩
  · rw [advance_sweep_of_le_lo (not_le.mp hhi) hlo]
    exact ⟨rfl, rfl⟩
  · rw [advance_sweep_of_between (not_le.mp hlo) (not_le.mp hhi)]
    exact ⟨rfl, rfl⟩

/-- Settles O9: the Rising case of `applyAdvance_sweep_pair`. -/
theorem advRiseEffect : Obligations.AdvRiseEffect := by
  intro b s
  refine ⟨_, exec_advRise b s, ?_, rfl⟩
  have h := applyAdvance_sweep_pair .rising s
  rw [tentative_rising, magnitude_eq_abs] at h
  exact h

/-- Settles O10: the Falling case of `applyAdvance_sweep_pair`. -/
theorem advFallEffect : Obligations.AdvFallEffect := by
  intro b s
  refine ⟨_, exec_advFall b s, ?_, rfl⟩
  have h := applyAdvance_sweep_pair .falling s
  rw [tentative_falling, magnitude_eq_abs] at h
  exact h

theorem exec_cmpwr (b : Bool) (m : Mode) (d : Direction) (s : State) :
    exec (.cmpwr b m d) s = execCmpwr s := rfl

/-- Settles O12: CMPWR answers a next state only for a compare value that fits. -/
theorem cmpwrRefusesUndefinedSum : Obligations.CmpwrRefusesUndefinedSum := by
  intro b m d s h
  rw [exec_cmpwr]
  refine execCmpwr_refused fun ⟨h0, h1⟩ => ?_
  unfold compareValue at h0 h1
  omega

/-! ### The arithmetic range -/

/-- Under WF4 with the pulse width in bounds the compare value is one the spec defines
(40_waveform_generator.md R67). -/
theorem compareValue_fits {s : State} (hwf : latchedAccepted s = true) (hin : InBounds s) :
    0 ≤ compareValue s ∧ compareValue s ≤ 2147483647 := by
  obtain ⟨-, -, -, hbase, htop⟩ := (wfCore_word_iff _ _ _ _).mp hwf
  obtain ⟨hlo, hhi⟩ := hin
  unfold compareValue
  exact ⟨by omega, by omega⟩

/-- Under WF3 with the pulse width in bounds both tentative values fit `s32`
(40_waveform_generator.md R67). -/
theorem tentative_fits {s : State} (hwf : latchedAccepted s = true) (hin : InBounds s)
    (d : Direction) : -2147483648 ≤ tentative s.pw.toInt d s.cfgStep.toInt
      ∧ tentative s.pw.toInt d s.cfgStep.toInt ≤ 2147483647 := by
  obtain ⟨-, -, ⟨hmin, hmax, -⟩, -⟩ := (wfCore_word_iff _ _ _ _).mp hwf
  obtain ⟨hlo, hhi⟩ := hin
  have hm := magnitude_nonneg s.cfgStep.toInt
  cases d with
  | rising => rw [tentative_rising]; omega
  | falling => rw [tentative_falling]; omega

/-- The only word whose magnitude does not fit `s32` is the most negative one
(30_encoding.md R52). -/
theorem abs_word_le {w : Word} (h : w.toInt ≠ -2147483648) : |w.toInt| ≤ 2147483647 := by
  have hrange := word_toInt_range w
  exact abs_le.mpr ⟨by omega, by omega⟩

/-- Settles O26: WF3 excludes the most negative step and bounds the tentative values, WF4 bounds the
compare value. -/
theorem noOverflowInBounds : Obligations.NoOverflowInBounds := by
  intro s hwf hin
  obtain ⟨-, -, ⟨-, -, hst⟩, -⟩ := (wfCore_word_iff _ _ _ _).mp hwf
  obtain ⟨h0, h1⟩ := compareValue_fits hwf hin
  refine ⟨abs_word_le hst, fun d => ?_, h0, toWord_toNat h0 h1, toWord_toInt (by omega) h1⟩
  obtain ⟨hmin, hmax⟩ := tentative_fits hwf hin d
  exact toWord_toInt hmin hmax

/-! ### The state after a service -/

/-- The pair that one application of `advance` makes of the registers (40_waveform_generator.md R60). -/
def nextPair (s : State) : Int × Direction :=
  advance s.cfgLo.toInt s.cfgHi.toInt s.pw.toInt s.dir s.cfgStep.toInt s.cfgMode

/-- The state after one complete tick service, `rest` being the turns still to come
(41_period_tick_driver.md R86). -/
def afterService (rest : List Turn) (s : State) : State :=
  { s with
    pw := toWord (nextPair s).1
    dir := (nextPair s).2
    cmp := toWord (s.cfgBase.toInt + (nextPair s).1)
    tickPending := false
    trace := s.trace ++ [.ack, .cmp (toWord (s.cfgBase.toInt + (nextPair s).1))]
    agenda := rest }

/-- The value that a service writes to `PW` is exact. -/
theorem toWord_nextPair_toInt (s : State) : (toWord (nextPair s).1).toInt = (nextPair s).1 :=
  advance_fits _ _ _ _ _ _

/-- The compare value in a service is `BASE` and the new pulse width (41_period_tick_driver.md R89). -/
theorem compareValue_applyAdvance (s : State) :
    compareValue (applyAdvance s.dir s.cfgMode s) = s.cfgBase.toInt + (nextPair s).1 := by
  simp [compareValue, nextPair]

/-- A service whose compare value is defined ends in `afterService` (41_period_tick_driver.md R86). -/
theorem run_service_next {s : State} {rest : List Turn} (hr : s.configRefused = false)
    (hp : s.phase = .idle) (ht : s.tickPending = true) (ha : s.agenda = serviceTurns ++ rest)
    (h0 : 0 ≤ s.cfgBase.toInt + (nextPair s).1)
    (h1 : s.cfgBase.toInt + (nextPair s).1 ≤ 2147483647) :
    run 3 s = .next (afterService rest s) := by
  have hvalue := compareValue_applyAdvance (enterService { s with agenda := rest })
  have hcmpwr := execCmpwr_of_fits (hvalue.symm ▸ h0) (hvalue.symm ▸ h1)
  rw [hvalue] at hcmpwr
  rw [run_service hr hp ht ha]
  refine hcmpwr.trans ?_
  simp [afterService, leaveService, cmpWrite, emit, setPhase, setPair, applyAdvance, enterService,
    tickAck, nextPair, hp]

/-- The direction after an advance with a step of 0 (40_waveform_generator.md R72). -/
theorem advance_sweep_zero_snd {lo hi c : Int} (d : Direction) :
    (advance lo hi c d 0 .sweep).2 =
      if hi ≤ c then .falling else if c ≤ lo then .rising else d := by
  have h := congrArg Prod.snd (sweepAdvanceSaturates lo hi c 0 d)
  rw [← tentative_eq_abs, tentative_zero] at h
  rw [h]
  dsimp only
  split_ifs <;> rfl

/-- Settles O29: the service is the one of R86 with the pair that a step of 0 gives. -/
theorem zeroStepSweepIsANoOp : Obligations.ZeroStepSweepIsANoOp := by
  intro s rest hr hp ht ha hmode hst hin h0 h1
  have hpw : (nextPair s).1 = s.pw.toInt := by
    simp only [nextPair, hmode, hst]
    exact advance_sweep_zero_fst hin.1 hin.2 s.dir
  have hdir : (nextPair s).2 = if s.cfgHi.toInt ≤ s.pw.toInt then .falling
      else if s.pw.toInt ≤ s.cfgLo.toInt then .rising else s.dir := by
    simp only [nextPair, hmode, hst]
    exact advance_sweep_zero_snd s.dir
  refine ⟨afterService rest s, run_service_next hr hp ht ha (by rwa [hpw]) (by rwa [hpw]),
    fun htop => ?_, fun hbot hlt => ?_, fun hlo hhi => ?_, ?_, ?_⟩
  · exact hdir.trans (if_pos (by rw [htop]))
  · rw [hbot, if_neg (not_le.mpr hlt), if_pos le_rfl] at hdir
    exact hdir
  · rw [if_neg (not_le.mpr hhi), if_neg (not_le.mpr hlo)] at hdir
    exact hdir
  · simp only [afterService, hpw]
    exact toWord_toNat h0 h1
  · simp [afterService, hpw]

/-! ### The state after any number of serviced periods -/

/-- A state in which the core waits for the next period: quiescent, under a well-formed configuration,
with the pulse width in bounds. -/
structure Waiting (s : State) : Prop where
  quiescent : isQuiescent s = true
  notRefused : s.configRefused = false
  accepted : latchedAccepted s = true
  inBounds : InBounds s

/-- The pair after `k` serviced periods, the iterate of `advance` (41_period_tick_driver.md R92). -/
def pairAfterTicks (k : Nat) (s : State) : Int × Direction :=
  iterateAdvance s.cfgLo.toInt s.cfgHi.toInt s.cfgStep.toInt s.cfgMode k (s.pw.toInt, s.dir)

/-- The state after `k` serviced periods, `rest` being the turns still to come
(41_period_tick_driver.md R92). -/
def afterTicks (k : Nat) (rest : List Turn) (s : State) : State :=
  { s with
    pw := toWord (pairAfterTicks k s).1
    dir := (pairAfterTicks k s).2
    cmp := if k = 0 then s.cmp else toWord (s.cfgBase.toInt + (pairAfterTicks k s).1)
    trace := s.trace ++ serviceEvents s.cfgLo.toInt s.cfgHi.toInt s.cfgStep.toInt s.cfgBase.toInt
      s.cfgMode (s.pw.toInt, s.dir) k
    agenda := rest }

theorem Waiting.pairAfterTicks_bounds {s : State} (h : Waiting s) (k : Nat) :
    s.cfgLo.toInt ≤ (pairAfterTicks k s).1 ∧ (pairAfterTicks k s).1 ≤ s.cfgHi.toInt :=
  iterateAdvance_bounds (r := (s.pw.toInt, s.dir)) h.inBounds.1 h.inBounds.2 k _ _

/-- `PW` holds the iterate exactly. -/
theorem Waiting.afterTicks_pw_toInt {s : State} (h : Waiting s) (k : Nat) (rest : List Turn) :
    (afterTicks k rest s).pw.toInt = (pairAfterTicks k s).1 := by
  have hb := h.pairAfterTicks_bounds k
  have hlo := word_toInt_range s.cfgLo
  have hhi := word_toInt_range s.cfgHi
  exact toWord_toInt (by omega) (by omega)

theorem Waiting.waiting_afterTicks {s : State} (h : Waiting s) (k : Nat) (rest : List Turn) :
    Waiting (afterTicks k rest s) where
  quiescent := h.quiescent
  notRefused := h.notRefused
  accepted := h.accepted
  inBounds := by
    rw [InBounds, h.afterTicks_pw_toInt k rest]
    exact h.pairAfterTicks_bounds k

/-- One more application of `advance` to the state after `k` periods gives the pair after `k + 1`. -/
theorem Waiting.nextPair_afterTicks {s : State} (h : Waiting s) (k : Nat) (rest : List Turn) :
    nextPair (afterTicks k rest s) = pairAfterTicks (k + 1) s := by
  rw [nextPair, h.afterTicks_pw_toInt k rest]
  rfl

theorem step_period_cons {s : State} {rest : List Turn} (h : s.agenda = .period :: rest) :
    step s = .next (takePeriod { s with agenda := rest }) := by
  have hpop : popTurn s = { s with agenda := rest } := by simp [popTurn, h]
  rw [step_of_head (headTurn_cons h), hpop]
  rfl

/-- From a waiting state a period is serviced in four turns; being in time it marks no overrun
(60_exceptions.md R102). -/
theorem Waiting.run_tick {s : State} {rest : List Turn} (h : Waiting s)
    (ha : s.agenda = .period :: (serviceTurns ++ rest)) :
    run 4 s = .next (afterService rest s) := by
  obtain ⟨hp, ht⟩ := (isQuiescent_iff s).mp h.quiescent
  have hin : InBounds (applyAdvance s.dir s.cfgMode s) := applyAdvance_inBounds h.inBounds _ _
  have hfits := compareValue_fits (s := applyAdvance s.dir s.cfgMode s) h.accepted hin
  rw [compareValue_applyAdvance] at hfits
  rw [run_succ_next (step_period_cons ha), run_service_next (rest := rest)
    (s := takePeriod { s with agenda := serviceTurns ++ rest }) h.notRefused hp rfl rfl
    hfits.1 hfits.2]
  have hq : isQuiescent { s with agenda := serviceTurns ++ rest } = true := h.quiescent
  simp [afterService, takePeriod, nextPair, hq]

/-- The turns of `n + 1` serviced periods end with those of one period. -/
theorem tickTurns_succ_append (n : Nat) (rest : List Turn) :
    tickTurns (n + 1) ++ rest = tickTurns n ++ (.period :: (serviceTurns ++ rest)) := by
  induction n with
  | zero => rfl
  | succ n ih =>
    rw [tickTurns, List.cons_append, List.append_assoc, ih]
    rfl

/-- The service of one more period after `k` of them. -/
theorem Waiting.afterService_afterTicks {s : State} (h : Waiting s) (k : Nat)
    (between rest : List Turn) :
    afterService rest (afterTicks k between s) = afterTicks (k + 1) rest s := by
  have ht : s.tickPending = false := ((isQuiescent_iff s).mp h.quiescent).2
  rw [afterService, h.nextPair_afterTicks]
  simp [afterTicks, serviceEvents, pairAfterTicks, toWord, ht]

/-- `k` periods, each serviced in time, lead to `afterTicks` (41_period_tick_driver.md R92). -/
theorem Waiting.run_ticks {s : State} (h : Waiting s) (k : Nat) {rest : List Turn}
    (ha : s.agenda = tickTurns k ++ rest) :
    run (4 * k) s = .next (afterTicks k rest s) := by
  induction k generalizing rest with
  | zero =>
    obtain rfl : s.agenda = rest := ha
    simp [afterTicks, pairAfterTicks, serviceEvents]
  | succ k ih =>
    rw [tickTurns_succ_append] at ha
    rw [show 4 * (k + 1) = 4 * k + 4 from rfl, run_add, ih ha]
    dsimp only
    rw [(h.waiting_afterTicks k _).run_tick rfl, h.afterService_afterTicks]

/-- Once a period has been serviced `CMP` holds `BASE + PW` (41_period_tick_driver.md R89). -/
theorem Waiting.afterTicks_cmp_toNat {s : State} (h : Waiting s) {k : Nat} (hk : 0 < k)
    (rest : List Turn) :
    ((afterTicks k rest s).cmp.toNat : Int)
      = s.cfgBase.toInt + (afterTicks k rest s).pw.toInt := by
  have hw := h.waiting_afterTicks k rest
  have hvalue : compareValue (afterTicks k rest s)
      = s.cfgBase.toInt + (pairAfterTicks k s).1 :=
    congrArg (s.cfgBase.toInt + ·) (h.afterTicks_pw_toInt k rest)
  have hfits := compareValue_fits hw.accepted hw.inBounds
  have hcmp : (afterTicks k rest s).cmp = toWord (compareValue (afterTicks k rest s)) := by
    rw [hvalue]
    exact if_neg hk.ne'
  rw [hcmp, toWord_toNat hfits.1 hfits.2]
  rfl

/-! ### The triangle wave -/

/-- `K = ceil(D / m)`, the number of periods of one flank (40_waveform_generator.md R73). -/
def flankLength (lo hi m : Int) : Int := (hi - lo + m - 1) / m

/-- `K` is the least number of steps of `m` that cover the distance between the bounds. -/
theorem lt_flankLength_iff {lo hi m : Int} (hm : 0 < m) (j : Int) :
    j < flankLength lo hi m ↔ j * m < hi - lo := by
  rw [flankLength, ← Int.add_one_le_iff, Int.le_ediv_iff_mul_le hm, add_one_mul]
  omega

/-- The pair of the triangle wave after `k` periods (40_waveform_generator.md R73). -/
def trianglePair (lo hi m : Int) (k : Int) : Int × Direction :=
  if k < flankLength lo hi m then (lo + k * m, .rising)
  else if k < 2 * flankLength lo hi m then (hi - (k - flankLength lo hi m) * m, .falling)
  else (lo, .rising)

section Triangle

variable {lo hi m k : Int}

theorem trianglePair_rising (h : k < flankLength lo hi m) :
    trianglePair lo hi m k = (lo + k * m, .rising) := if_pos h

theorem trianglePair_falling (h1 : flankLength lo hi m ≤ k) (h2 : k < 2 * flankLength lo hi m) :
    trianglePair lo hi m k = (hi - (k - flankLength lo hi m) * m, .falling) := by
  rw [trianglePair, if_neg (not_lt.mpr h1), if_pos h2]

theorem trianglePair_end (h : 0 < flankLength lo hi m) :
    trianglePair lo hi m (2 * flankLength lo hi m) = (lo, .rising) := by
  rw [trianglePair, if_neg (by omega), if_neg (by omega)]

/-- A period on the rising flank: one step up, or the touch of `HI` at the end of the flank. -/
theorem advance_trianglePair_rising {st : Int} (hm : 0 < |st|) (h0 : 0 ≤ k)
    (hk : k < flankLength lo hi |st|) :
    advance lo hi (lo + k * |st|) .rising st .sweep = trianglePair lo hi |st| (k + 1) := by
  have hkm : 0 ≤ k * |st| := mul_nonneg h0 hm.le
  have ht : tentative (lo + k * |st|) .rising st = lo + (k + 1) * |st| := by
    rw [tentative_rising, magnitude_eq_abs]
    ring
  have hnext := lt_flankLength_iff (lo := lo) (hi := hi) hm (k + 1)
  by_cases hlast : k + 1 < flankLength lo hi |st|
  · rw [trianglePair_rising hlast, ← ht]
    have hinside := hnext.mp hlast
    exact advance_sweep_of_between (by rw [ht, add_one_mul]; omega) (by omega)
  · have htouch : hi ≤ tentative (lo + k * |st|) .rising st := by
      have := mt hnext.mpr hlast
      omega
    have hflank : k + 1 = flankLength lo hi |st| := by omega
    rw [advance_sweep_of_hi_le htouch, trianglePair_falling (by omega) (by omega), hflank]
    simp

/-- A period on the falling flank: one step down, or the touch of `LO` at the end of the flank. -/
theorem advance_trianglePair_falling {st : Int} (hm : 0 < |st|) (h1 : flankLength lo hi |st| ≤ k)
    (h2 : k < 2 * flankLength lo hi |st|) :
    advance lo hi (hi - (k - flankLength lo hi |st|) * |st|) .falling st .sweep
      = trianglePair lo hi |st| (k + 1) := by
  obtain ⟨j, rfl⟩ : ∃ j, k = j + flankLength lo hi |st| := ⟨_, (sub_add_cancel _ _).symm⟩
  have hjm : 0 ≤ j * |st| := mul_nonneg (by omega) hm.le
  rw [add_sub_cancel_right]
  have ht : tentative (hi - j * |st|) .falling st = hi - (j + 1) * |st| := by
    rw [tentative_falling, magnitude_eq_abs]
    ring
  have hbelow : tentative (hi - j * |st|) .falling st < hi := by
    rw [ht, add_one_mul]
    omega
  have hnext := lt_flankLength_iff (lo := lo) (hi := hi) hm (j + 1)
  by_cases hlast : j + 1 < flankLength lo hi |st|
  · have hinside := hnext.mp hlast
    rw [advance_sweep_of_between (by omega) hbelow, trianglePair_falling (by omega) (by omega), ht]
    ring_nf
  · have htouch : tentative (hi - j * |st|) .falling st ≤ lo := by
      have := mt hnext.mpr hlast
      omega
    have hend : j + flankLength lo hi |st| + 1 = 2 * flankLength lo hi |st| := by omega
    rw [advance_sweep_of_le_lo hbelow htouch, hend, trianglePair_end (by omega)]

end Triangle

/-- The iterates of `advance` from `(LO, Rising)` are the triangle wave, for one whole period of it. -/
theorem iterateAdvance_eq_trianglePair {lo hi st : Int} (h : lo < hi) (hst : st ≠ 0) (k : Nat)
    (hk : (k : Int) ≤ 2 * flankLength lo hi |st|) :
    iterateAdvance lo hi st .sweep k (lo, .rising) = trianglePair lo hi |st| k := by
  have hm : 0 < |st| := abs_pos.mpr hst
  induction k with
  | zero =>
    have hpos : (0 : Int) < flankLength lo hi |st| := (lt_flankLength_iff hm 0).mpr (by omega)
    rw [Nat.cast_zero, trianglePair_rising hpos]
    simp
  | succ k ih =>
    push_cast at hk ⊢
    rw [iterateAdvance_succ, ih (by omega)]
    by_cases hflank : (k : Int) < flankLength lo hi |st|
    · rw [trianglePair_rising hflank]
      exact advance_trianglePair_rising hm (Int.natCast_nonneg k) hflank
    · have hlt : (k : Int) < 2 * flankLength lo hi |st| := by omega
      rw [trianglePair_falling (not_lt.mp hflank) hlt]
      exact advance_trianglePair_falling hm (not_lt.mp hflank) hlt

/-- Settles O50: the machine holds the iterates of `advance` (`Waiting.run_ticks`), and those are the
triangle wave; WF2 with a step that is not 0 puts `LO` below `HI`. -/
theorem triangleWave : Obligations.TriangleWave := by
  intro k s rest hq hr hwf hmode hpw hdir hstep ha m kk hk
  obtain ⟨-, hspan, -⟩ := (wfCore_word_iff _ _ _ _).mp hwf
  have hst : s.cfgStep.toInt ≠ 0 := mt (word_toInt_eq_zero_iff _).mp hstep
  have hlt : s.cfgLo.toInt < s.cfgHi.toInt := by
    have := magnitude_pos hst
    omega
  have hs : Waiting s := ⟨hq, hr, hwf, by rw [InBounds, hpw]; exact ⟨le_rfl, hlt.le⟩⟩
  have hpair : pairAfterTicks k s = trianglePair s.cfgLo.toInt s.cfgHi.toInt m k := by
    rw [pairAfterTicks, hmode, hpw, hdir]
    exact iterateAdvance_eq_trianglePair hlt hst k hk
  have hvalue : (afterTicks k rest s).pw.toInt
      = (trianglePair s.cfgLo.toInt s.cfgHi.toInt m k).1 := by
    rw [hs.afterTicks_pw_toInt, hpair]
  have hturn : (afterTicks k rest s).dir = (trianglePair s.cfgLo.toInt s.cfgHi.toInt m k).2 :=
    congrArg Prod.snd hpair
  refine ⟨afterTicks k rest s, hs.run_ticks k ha, fun hrise => ?_, fun hfall hend => ?_,
    fun hend => ?_, fun hpos => hs.afterTicks_cmp_toNat hpos rest, rfl⟩
  · rw [hvalue, hturn, trianglePair_rising hrise]
    exact ⟨rfl, rfl⟩
  · rw [hvalue, hturn, trianglePair_falling hfall hend]
    exact ⟨rfl, rfl⟩
  · have hflank : 0 < kk := (lt_flankLength_iff (abs_pos.mpr hst) 0).mpr (by omega)
    rw [← BitVec.toInt_inj, hvalue, hturn, hend]
    have := trianglePair_end (lo := s.cfgLo.toInt) (hi := s.cfgHi.toInt) (m := m) hflank
    exact ⟨congrArg Prod.fst this, congrArg Prod.snd this⟩

end Sys2Proof.Machine

/-!
PROOFS, the Period Tick Driver (41_period_tick_driver.md): its own operations (R81 to R85), the net
effect of a tick service (R86), PERIOD inside a service (R86, R90), and the output after RESET, for the
periods serviced in time (R91, R92) and for every schedule (R92, R105).
-/

namespace Sys2Proof.Machine

/-! ### The operations -/

theorem exec_wait (m : Mode) (d : Direction) (s : State) : exec (.wait m d) s = .next s := rfl

theorem exec_ack (m : Mode) (d : Direction) (s : State) :
    exec (.ack m d) s = .next (enterService s) := rfl

theorem exec_rsvd (b : Bool) (m : Mode) (d : Direction) (s : State) :
    exec (.rsvd b m d) s = .refused .reservedPhase := rfl

/-- Settles O6: the arm of WAIT answers its state. -/
theorem waitChangesNothing : Obligations.WaitChangesNothing := exec_wait

/-- Settles O7: ACK is the entry into a service, field by field. -/
theorem ackEffect : Obligations.AckEffect := exec_ack

/-- Settles O13: the arm of RSVD answers the refusal. -/
theorem rsvdIsRefused : Obligations.RsvdIsRefused := exec_rsvd

/-- Settles O11: a sum that fits is the compare value, which its word holds exactly. -/
theorem cmpwrEffect : Obligations.CmpwrEffect := by
  intro b m d s h0 h1
  rw [exec_cmpwr]
  exact ⟨_, execCmpwr_of_fits h0 h1, toWord_toNat h0 h1, rfl⟩

/-! ### The net effect of a service -/

/-- Settles O28: the service ends in `afterService`, whose words hold the pair and the sum exactly. -/
theorem serviceNetEffect : Obligations.ServiceNetEffect := by
  intro s rest hr hp ht ha r h0 h1
  exact ⟨afterService rest s, run_service_next hr hp ht ha h0 h1, toWord_nextPair_toInt s, rfl,
    toWord_toNat h0 h1, rfl⟩

/-- Under a well-formed configuration the next service's compare value is defined
(40_waveform_generator.md R67). -/
theorem Waiting.nextPair_fits {s : State} (h : Waiting s) :
    0 ≤ s.cfgBase.toInt + (nextPair s).1 ∧ s.cfgBase.toInt + (nextPair s).1 ≤ 2147483647 := by
  rw [← compareValue_applyAdvance]
  exact compareValue_fits (s := applyAdvance s.dir s.cfgMode s) h.accepted
    (applyAdvance_inBounds h.inBounds _ _)

@[simp] theorem afterTicks_zero (s : State) : afterTicks 0 s.agenda s = s := by
  simp [afterTicks, pairAfterTicks, serviceEvents]

/-- One service from a waiting state is the first of its periods. -/
theorem Waiting.afterService_eq {s : State} (h : Waiting s) (rest : List Turn) :
    afterService rest s = afterTicks 1 rest s := by
  have hfirst := h.afterService_afterTicks 0 s.agenda rest
  rwa [afterTicks_zero] at hfirst

/-! ### PERIOD and the steps of a service -/

/-- The state with the pending bit, the mark `Overrun` and the agenda at the given values: what a
service in progress does not look at. -/
def withFlags (pending marked : Bool) (a : List Turn) (s : State) : State :=
  { s with tickPending := pending, overrun := marked, agenda := a }

/-- The outcome with `f` applied to its state, if it is one. -/
def mapNext (f : State → State) (o : Host.Outcome State Fault Refusal) :
    Host.Outcome State Fault Refusal :=
  match o with
  | .next t => .next (f t)
  | .fault e => .fault e
  | .refused r => .refused r

theorem execCmpwr_withFlags (b o : Bool) (a : List Turn) (s : State) :
    execCmpwr (withFlags b o a s) = mapNext (withFlags b o a) (execCmpwr s) := by
  by_cases hfits : 0 ≤ compareValue s ∧ compareValue s ≤ 2147483647
  · rw [execCmpwr_of_fits hfits.1 hfits.2,
      execCmpwr_of_fits (s := withFlags b o a s) hfits.1 hfits.2]
    rfl
  · rw [execCmpwr_refused hfits, execCmpwr_refused (s := withFlags b o a s) hfits]
    rfl

/-- Inside a service the core neither reads nor writes the pending bit, the mark and the agenda. -/
theorem coreTurn_withFlags {s : State} (hp : s.phase = .acked ∨ s.phase = .advanced) (b o : Bool)
    (a : List Turn) :
    coreTurn (withFlags b o a s) = mapNext (withFlags b o a) (coreTurn s) := by
  cases hr : s.configRefused with
  | true => simp [coreTurn_eq, withFlags, hr, mapNext]
  | false =>
    obtain hp | hp := hp
    · rw [coreTurn_acked hr hp, coreTurn_acked (s := withFlags b o a s) hr hp]
      rfl
    · rw [coreTurn_advanced hr hp, coreTurn_advanced (s := withFlags b o a s) hr hp,
        execCmpwr_withFlags]

/-- Settles O33: the core's step keeps what PERIOD writes, and PERIOD keeps what the core's step reads
and writes, so the two orders differ in whether PERIOD marked a state of the service or an idle one. -/
theorem periodCommutesWithinAService : Obligations.PeriodCommutesWithinAService := by
  intro s rest hp
  have hperiodFirst : run 2 { s with agenda := .period :: .core :: rest }
      = mapNext (withFlags true (s.overrun || !isQuiescent s) rest) (coreTurn s) := by
    rw [run_succ_next (step_period_cons rfl), run_one, step_core_cons rfl]
    exact coreTurn_withFlags hp _ _ _
  have hcore : step { s with agenda := .core :: .period :: rest }
      = mapNext (withFlags s.tickPending s.overrun (.period :: rest)) (coreTurn s) := by
    rw [step_core_cons rfl]
    exact coreTurn_withFlags hp _ _ _
  rw [hperiodFirst]
  cases hturn : coreTurn s with
  | next t =>
    rw [hturn] at hcore
    rw [run_succ_next hcore, run_one, step_period_cons rfl]
    exact ⟨_, rfl⟩
  | fault f => cases f
  | refused r =>
    rw [hturn] at hcore
    rw [run_succ, hcore]
    rfl

/-- A run goes on from the state its first part leads to. -/
theorem run_add_next {j k : Nat} {s t : State} (h : run j s = .next t) :
    run (j + k) s = run k t := by
  rw [run_add, h]

/-- A waiting state in which a period is pending is serviced, whether or not `Overrun` is marked. -/
theorem Waiting.run_service_withFlags {s : State} (h : Waiting s) (o : Bool) (rest : List Turn) :
    run 3 (withFlags true o (serviceTurns ++ rest) s)
      = .next (withFlags false o rest (afterService rest s)) := by
  have hp : s.phase = .idle := ((isQuiescent_iff s).mp h.quiescent).1
  obtain ⟨h0, h1⟩ := h.nextPair_fits
  rw [run_service_next (s := withFlags true o (serviceTurns ++ rest) s) h.notRefused hp rfl rfl h0 h1]
  rfl

/-- A PERIOD that finds the flag set or a service in progress marks `Overrun`
(60_exceptions.md R102). -/
theorem step_period_overrun {s : State} {b : Bool} (hbusy : b = true ∨ s.phase ≠ .idle) (o : Bool)
    (rest : List Turn) :
    step (withFlags b o (.period :: rest) s) = .next (withFlags true true rest s) := by
  have hnq : isQuiescent (withFlags b o rest s) = false := by
    obtain rfl | hp := hbusy
    · simp [isQuiescent, withFlags]
    · simp [isQuiescent, withFlags, hp]
  have hmarked : takePeriod (withFlags b o rest s) = withFlags true true rest s := by
    rw [takePeriod, hnq]
    simp [withFlags]
  exact (step_period_cons rfl).trans (congrArg _ hmarked)

/-- The two turns that finish a service after its ACK, with what they do not look at. -/
theorem run_rest_of_service {s : State} (hr : s.configRefused = false) (hp : s.phase = .acked)
    (b o : Bool) (rest : List Turn) :
    run 2 (withFlags b o (.core :: .core :: rest) s)
      = mapNext (withFlags b o rest) (execCmpwr (applyAdvance s.dir s.cfgMode s)) := by
  have hadv : step (withFlags b o (.core :: .core :: rest) s)
      = .next (withFlags b o (.core :: rest) (applyAdvance s.dir s.cfgMode s)) := by
    rw [step_core_cons rfl]
    exact coreTurn_acked hr hp
  rw [run_succ_next hadv, run_one, step_core_cons rfl, ← execCmpwr_withFlags]
  exact coreTurn_advanced hr rfl

/-- With a PERIOD between ACK and ADV the service ends as without it, but leaves the new period pending
and `Overrun` marked (41_period_tick_driver.md R90). -/
theorem Waiting.run_service_interrupted {s : State} (h : Waiting s) (o : Bool) (rest : List Turn) :
    run 4 (withFlags true o (.core :: .period :: .core :: .core :: rest) s)
      = .next (withFlags true true rest (afterService rest s)) := by
  have hp : s.phase = .idle := ((isQuiescent_iff s).mp h.quiescent).1
  have hack : step (withFlags true o (.core :: .period :: .core :: .core :: rest) s)
      = .next (withFlags false o (.period :: .core :: .core :: rest)
          (enterService (withFlags true o rest s))) := by
    rw [step_core_cons rfl]
    exact coreTurn_pending h.notRefused hp rfl
  have hservice := run_service (s := withFlags true o (serviceTurns ++ rest) s) (rest := rest)
    h.notRefused hp rfl rfl
  rw [h.run_service_withFlags] at hservice
  rw [run_succ_next hack, run_succ_next (step_period_overrun (.inr (by simp)) _ _),
    run_rest_of_service (s := enterService (withFlags true o rest s)) h.notRefused rfl]
  exact congrArg (mapNext (withFlags true true rest)) hservice.symm

/-- The pair in the registers after `k` periods. -/
theorem Waiting.afterTicks_pair {s : State} (h : Waiting s) (k : Nat) (rest : List Turn) :
    ((afterTicks k rest s).pw.toInt, (afterTicks k rest s).dir) = pairAfterTicks k s := by
  rw [h.afterTicks_pw_toInt]
  rfl

/-- What a run that marked `Overrun` on its way to the state after `k` periods has changed. -/
theorem Waiting.withFlags_afterTicks {s : State} (h : Waiting s) (k : Nat) (rest : List Turn) :
    let t := withFlags false true rest (afterTicks k rest s)
    (t.pw.toInt, t.dir) = pairAfterTicks k s
      ∧ t = { s with
          pw := t.pw, dir := t.dir, cmp := t.cmp, overrun := true
          trace := s.trace ++ serviceEvents s.cfgLo.toInt s.cfgHi.toInt s.cfgStep.toInt
            s.cfgBase.toInt s.cfgMode (s.pw.toInt, s.dir) k
          agenda := rest } := by
  have ht : s.tickPending = false := ((isQuiescent_iff s).mp h.quiescent).2
  exact ⟨h.afterTicks_pair k rest, by simp [withFlags, afterTicks, ht]⟩

/-- Settles O32: the first service is interrupted and leaves a period for the second; two PERIODs
together leave one. -/
theorem periodInsideAService : Obligations.PeriodInsideAService := by
  intro s rest hq hr hwf hin it ev
  have h : Waiting s := ⟨hq, hr, hwf, hin⟩
  have hfirst (a : List Turn) (ha : s.agenda = .period :: a) :
      step s = .next (withFlags true s.overrun a s) := by
    rw [step_period_cons ha]
    have hq' : isQuiescent { s with agenda := a } = true := hq
    simp [takePeriod, withFlags, hq']
  refine ⟨fun ha => ⟨withFlags false true rest (afterTicks 2 rest s), ?_, h.withFlags_afterTicks 2 rest⟩,
    fun ha => ⟨withFlags false true rest (afterTicks 1 rest s), ?_, h.withFlags_afterTicks 1 rest⟩⟩
  · have hinterrupted := h.run_service_interrupted s.overrun (serviceTurns ++ rest)
    rw [h.afterService_eq] at hinterrupted
    have hsecond := (h.waiting_afterTicks 1 (serviceTurns ++ rest)).run_service_withFlags true rest
    rw [h.afterService_afterTicks] at hsecond
    rw [run_succ_next (hfirst _ ha)]
    exact (run_add_next hinterrupted).trans hsecond
  · have hlost := step_period_overrun (s := s) (.inl rfl) s.overrun (serviceTurns ++ rest)
    rw [run_succ_next (hfirst _ ha), ← h.afterService_eq]
    exact (run_succ_next hlost).trans (h.run_service_withFlags true rest)

/-! ### The output when every period is serviced in time -/

theorem step_reset_cons {s : State} {c : Cfg} {rest : List Turn} (h : s.agenda = .reset c :: rest) :
    step s = .next (takeReset c { s with agenda := rest }) := by
  have hpop : popTurn s = { s with agenda := rest } := by simp [popTurn, h]
  rw [step_of_head (headTurn_cons h), hpop]
  rfl

/-- RESET with a well-formed configuration leaves a waiting state, if no period was pending
(10_state.md R23). -/
theorem waiting_takeReset {c : Cfg} {s : State} (hc : cfgWellFormed c = true)
    (ht : s.tickPending = false) : Waiting (takeReset c s) where
  quiescent := (isQuiescent_iff _).mpr ⟨rfl, ht⟩
  notRefused := by simp [((cfgWellFormed_iff c).mp hc).1]
  accepted := ((cfgWellFormed_iff c).mp hc).1
  inBounds := ((cfgWellFormed_iff c).mp hc).2

/-- RESET, and then `n` periods each serviced in time (41_period_tick_driver.md R92). -/
theorem run_reset_ticks {s : State} {c : Cfg} {n : Nat} {rest : List Turn}
    (hc : cfgWellFormed c = true) (ht : s.tickPending = false)
    (ha : s.agenda = .reset c :: (tickTurns n ++ rest)) :
    run (1 + 4 * n) s
      = .next (afterTicks n rest (takeReset c { s with agenda := tickTurns n ++ rest })) := by
  rw [Nat.add_comm, run_succ_next (step_reset_cons ha)]
  exact (waiting_takeReset (s := { s with agenda := tickTurns n ++ rest }) hc ht).run_ticks n rfl

/-- Settles O48: the state that RESET leaves waits, and `n` serviced periods lead from there to
`afterTicks`. -/
theorem outputSequence : Obligations.OutputSequence := by
  intro n s c rest hc ht ha
  have h : Waiting (takeReset c { s with agenda := tickTurns n ++ rest }) := waiting_takeReset hc ht
  exact ⟨_, run_reset_ticks hc ht ha, rfl, h.afterTicks_pair n rest,
    (h.waiting_afterTicks n rest).quiescent, rfl, rfl⟩

/-- Settles O31: the case of one period; in Static mode WF5 keeps `PW_INIT` from being clamped. -/
theorem firstServiceAfterReset : Obligations.FirstServiceAfterReset := by
  intro s c rest hc ht ha
  have h : Waiting (takeReset c { s with agenda := tickTurns 1 ++ rest }) := waiting_takeReset hc ht
  have hcmp := h.afterTicks_cmp_toNat Nat.one_pos rest
  rw [h.afterTicks_pw_toInt] at hcmp
  refine ⟨_, run_reset_ticks hc ht ha, hcmp, fun hmode => hcmp.trans ?_, rfl, rfl⟩
  obtain ⟨-, -, hhi⟩ := (cfgWellFormed_iff c).mp hc
  simp [pairAfterTicks, iterateAdvance, hmode, hhi]

/-! ### The output for every schedule -/

/-- The events that a service has emitted when it is in a phase (20_memory.md R38). -/
def eventsInService : Phase → List Event
  | .idle => []
  | .acked => [.ack]
  | .advanced => [.ack]
  | .reserved => [.ack]

/-- How often a service has applied `advance` when it is in a phase (10_state.md R14). -/
def advancesInService : Phase → Nat
  | .idle => 0
  | .acked => 0
  | .advanced => 1
  | .reserved => 0

/-- The events of the first `n` services from the pair of `b`. -/
def eventsAfterTicks (n : Nat) (b : State) : List Event :=
  serviceEvents b.cfgLo.toInt b.cfgHi.toInt b.cfgStep.toInt b.cfgBase.toInt b.cfgMode
    (b.pw.toInt, b.dir) n

/-- After `p` steps of PERIOD since `b`, and no RESET, `t` has completed `n` services: its trace and
pair are those of `n` services and of the part done of the one in progress. Without an overrun every
period was serviced, is in service or is pending, and none came inside a service. -/
structure HasServiced (b : State) (p n : Nat) (t : State) : Prop where
  configuration : SameConfiguration b t
  notReserved : t.phase ≠ .reserved
  trace : t.trace = b.trace ++ eventsAfterTicks n b ++ eventsInService t.phase
  pair : (t.pw.toInt, t.dir) = pairAfterTicks (n + advancesInService t.phase) b
  inService : t.overrun = false → t.phase ≠ .idle → t.tickPending = false
  periods : t.overrun = false → p = n + (if isQuiescent t then 0 else 1)

theorem SameConfiguration.trans {s t u : State} (h : SameConfiguration s t)
    (h' : SameConfiguration t u) : SameConfiguration s u :=
  ⟨h'.mode.trans h.mode, h'.step.trans h.step, h'.lo.trans h.lo, h'.hi.trans h.hi,
    h'.base.trans h.base, h'.refused.trans h.refused⟩

/-- One more `advance` of the registers is one more of the iterates. -/
theorem nextPair_eq_pairAfterTicks {b s : State} {k : Nat} (hcfg : SameConfiguration b s)
    (hpair : (s.pw.toInt, s.dir) = pairAfterTicks k b) : nextPair s = pairAfterTicks (k + 1) b := by
  have hnext : pairAfterTicks (k + 1) b = advance b.cfgLo.toInt b.cfgHi.toInt (pairAfterTicks k b).1
      (pairAfterTicks k b).2 b.cfgStep.toInt b.cfgMode := rfl
  rw [hnext, ← hpair, nextPair, hcfg.lo, hcfg.hi, hcfg.step, hcfg.mode]

/-- A CMPWR completes the events of one more service. -/
theorem eventsAfterTicks_succ {b s : State} {n : Nat} (hcfg : SameConfiguration b s)
    (hpair : (s.pw.toInt, s.dir) = pairAfterTicks (n + 1) b) :
    eventsAfterTicks (n + 1) b = eventsAfterTicks n b ++ [.ack, .cmp (toWord (compareValue s))] := by
  have hpw : s.pw.toInt = (pairAfterTicks (n + 1) b).1 := congrArg Prod.fst hpair
  rw [compareValue, hcfg.base, hpw]
  rfl

section HasServiced

variable {b s t : State} {p n : Nat}

/-- A waiting state has serviced nothing since itself. -/
theorem hasServiced_zero (h : Waiting b) : HasServiced b 0 0 b := by
  obtain ⟨hp, ht⟩ := (isQuiescent_iff b).mp h.quiescent
  exact ⟨⟨rfl, rfl, rfl, rfl, rfl, rfl⟩, by simp [hp],
    by simp [hp, eventsAfterTicks, serviceEvents, eventsInService],
    by simp [hp, pairAfterTicks, advancesInService], fun _ _ => ht, by simp [h.quiescent]⟩

/-- ACK: a pending period goes into service. -/
theorem HasServiced.after_ack (h : HasServiced b p n s) (hp : s.phase = .idle)
    (ht : s.tickPending = true) : HasServiced b p n (enterService s) := by
  obtain ⟨hcfg, -, htrace, hpair, -, hper⟩ := h
  rw [hp] at htrace hpair
  refine ⟨hcfg.trans ⟨rfl, rfl, rfl, rfl, rfl, rfl⟩, by simp,
    by simp [htrace, eventsInService], hpair, fun _ _ => rfl, fun ho => ?_⟩
  have hone : p = n + 1 := by simpa [isQuiescent, ht] using hper ho
  simp [isQuiescent, hone]

/-- ADV: the pair is the one of the service in progress. -/
theorem HasServiced.after_adv (h : HasServiced b p n s) (hp : s.phase = .acked) :
    HasServiced b p n (applyAdvance s.dir s.cfgMode s) := by
  obtain ⟨hcfg, -, htrace, hpair, hin, hper⟩ := h
  have hnext := nextPair_eq_pairAfterTicks hcfg hpair
  rw [hp] at htrace hnext
  refine ⟨hcfg.trans ⟨rfl, rfl, rfl, rfl, rfl, rfl⟩, by simp, htrace, ?_,
    fun ho _ => hin ho (by simp [hp]), fun ho => ?_⟩
  · rw [applyAdvance_pw_toInt]
    exact hnext
  · have hone : p = n + 1 := by simpa [isQuiescent, hp] using hper ho
    simp [isQuiescent, hone]

/-- CMPWR: the service in progress is completed. -/
theorem HasServiced.after_cmpwr (h : HasServiced b p n s) (hp : s.phase = .advanced) :
    HasServiced b p (n + 1) (leaveService (cmpWrite (toWord (compareValue s)) s)) := by
  obtain ⟨hcfg, -, htrace, hpair, hin, hper⟩ := h
  rw [hp] at htrace hpair
  refine ⟨hcfg.trans ⟨rfl, rfl, rfl, rfl, rfl, rfl⟩, by simp, ?_, hpair,
    fun _ hidle => absurd rfl hidle, fun ho => ?_⟩
  · simp [htrace, eventsAfterTicks_succ hcfg hpair, eventsInService]
  · have hone : p = n + 1 := by simpa [isQuiescent, hp] using hper ho
    have hnone : s.tickPending = false := hin ho (by simp [hp])
    simp [isQuiescent, hone, hnone]

/-- PERIOD: one more period, which marks an overrun unless it found the core quiescent. -/
theorem HasServiced.after_period (h : HasServiced b p n s) : HasServiced b (p + 1) n (takePeriod s) := by
  obtain ⟨hcfg, hnr, htrace, hpair, -, hper⟩ := h
  have hunmarked (ho : (takePeriod s).overrun = false) :
      s.overrun = false ∧ isQuiescent s = true := by
    simpa using ho
  refine ⟨hcfg.trans ⟨rfl, rfl, rfl, rfl, rfl, rfl⟩, hnr, htrace, hpair,
    fun ho hbusy => ?_, fun ho => ?_⟩
  · exact absurd ((isQuiescent_iff s).mp (hunmarked ho).2).1 hbusy
  · obtain ⟨ho', hq⟩ := hunmarked ho
    have hnone : p = n := by simpa [hq] using hper ho'
    simp [isQuiescent, hnone]

/-- The agenda and its turns are not counted. -/
theorem HasServiced.after_popTurn (h : HasServiced b p n s) : HasServiced b p n (popTurn s) :=
  ⟨h.configuration.trans ⟨rfl, rfl, rfl, rfl, rfl, rfl⟩, h.notReserved, h.trace, h.pair,
    h.inService, h.periods⟩

/-- A turn of the core keeps the number of services, or completes one. -/
theorem HasServiced.after_coreTurn (h : HasServiced b p n s) (hturn : coreTurn s = .next t) :
    ∃ n', HasServiced b p n' t := by
  obtain ⟨-, ⟨-, -, rfl⟩ | ⟨hp, ht, rfl⟩ | ⟨hp, rfl⟩ | ⟨hp, -, -, rfl⟩⟩ := coreTurn_next hturn
  · exact ⟨n, h⟩
  · exact ⟨n, h.after_ack hp ht⟩
  · exact ⟨n, h.after_adv hp⟩
  · exact ⟨n + 1, h.after_cmpwr hp⟩

end HasServiced

/-- The first turn of an agenda and the turns after it; on an empty agenda the core moves. -/
theorem periodsTaken_succ (k : Nat) (s : State) :
    periodsTaken (k + 1) s.agenda
      = (if headTurn s = .period then 1 else 0) + periodsTaken k s.agenda.tail := by
  cases ha : s.agenda with
  | nil => simp [headTurn_nil ha, periodsTaken]
  | cons x a => simp [headTurn_cons ha, periodsTaken, List.count_cons, Nat.add_comm]

/-- One step that is no RESET. -/
theorem HasServiced.after_step {b s t : State} {p n : Nat} (h : HasServiced b p n s)
    (hstep : step s = .next t) (hreset : (headTurn s).isReset = false) :
    ∃ n', HasServiced b (p + if headTurn s = .period then 1 else 0) n' t := by
  obtain ⟨hh, hc⟩ | ⟨hh, rfl⟩ | ⟨c, hh, -⟩ := step_next hstep
  · simpa [hh] using h.after_popTurn.after_coreTurn hc
  · exact ⟨n, by simpa [hh] using h.after_popTurn.after_period⟩
  · rw [hh] at hreset
    cases hreset

theorem headTurn_not_reset {s : State} (h : NoResetAhead s) : (headTurn s).isReset = false := by
  cases hh : headTurn s with
  | core => rfl
  | period => rfl
  | reset c => exact absurd (h _ (mem_of_headTurn_reset hh)) (by simp [Turn.isReset])

/-- Any run without a RESET, in whatever order the core and the tick source move. -/
theorem HasServiced.after_run {b s t : State} {p n k : Nat} (h : HasServiced b p n s)
    (hahead : NoResetAhead s) (hrun : run k s = .next t) :
    ∃ n', HasServiced b (p + periodsTaken k s.agenda) n' t := by
  induction k generalizing s p n with
  | zero =>
    obtain rfl := Host.Outcome.next.inj hrun
    exact ⟨n, h⟩
  | succ k ih =>
    rw [run_succ] at hrun
    cases hstep : step s with
    | next u =>
      rw [hstep] at hrun
      obtain ⟨m, hu⟩ := h.after_step hstep (headTurn_not_reset hahead)
      have hagenda := step_agenda hstep
      have hahead' : NoResetAhead u := by
        intro x hx
        rw [hagenda] at hx
        exact hahead x (List.mem_of_mem_tail hx)
      rw [periodsTaken_succ, ← Nat.add_assoc, ← hagenda]
      exact ih hu hahead' hrun
    | fault f => cases f
    | refused r =>
      rw [hstep] at hrun
      cases hrun

/-- Settles O49: after RESET nothing has been serviced, every turn keeps `HasServiced`, and it says by
phase what has been emitted. -/
theorem outputIndependentOfTheSchedule : Obligations.OutputIndependentOfTheSchedule := by
  intro k s t c rest hc ht ha hahead hrun it ev
  rw [run_succ_next (step_reset_cons ha)] at hrun
  have hreset : Waiting (takeReset c { s with agenda := rest }) := waiting_takeReset hc ht
  obtain ⟨n, hserviced⟩ := (hasServiced_zero hreset).after_run hahead hrun
  obtain ⟨-, hnr, htrace, hpair, -, hper⟩ := hserviced
  refine ⟨n, ?_, fun ho => (Nat.zero_add _).symm.trans (hper ho)⟩
  cases hp : t.phase with
  | idle =>
    rw [hp] at htrace hpair
    exact ⟨htrace.trans (List.append_nil _), hpair⟩
  | acked =>
    rw [hp] at htrace hpair
    exact ⟨htrace, hpair⟩
  | advanced =>
    rw [hp] at htrace hpair
    exact ⟨htrace, hpair⟩
  | reserved => exact hnr hp

end Sys2Proof.Machine

/-!
PROOFS, exceptions (60_exceptions.md): the progress of a safe machine (R100), what PERIOD does (R103) and
who writes and reads `TICK_PENDING` (R105), the mark `Overrun` (R102) and each other register (R109), the
refused configuration (R101), PERIOD against ACK (R106), and the quiescent core (R114).
-/

namespace Sys2Proof.Machine

/-! ### The progress of a safe machine -/

/-- A legal state with a well-formed configuration is not marked `ConfigRefused`
(60_exceptions.md R101). -/
theorem Safe.notRefused {s : State} (h : Safe s) : s.configRefused = false := by
  obtain ⟨⟨-, hmark⟩, haccepted, -, -⟩ := h
  rw [hmark, haccepted]
  rfl

/-- Taking a turn off the agenda leaves a safe state safe. -/
theorem Safe.after_popTurn {s : State} (h : Safe s) : Safe (popTurn s) := by
  obtain ⟨hlegal, haccepted, hin, hagenda⟩ := h
  exact ⟨hlegal, haccepted, hin, respectfulAgenda_popTurn hagenda⟩

/-- In a safe state CMPWR writes the compare value, for it is one the spec defines
(00_scope.md R6 WF4). -/
theorem Safe.execCmpwr_eq {s : State} (h : Safe s) :
    execCmpwr s = .next (leaveService (cmpWrite (toWord (compareValue s)) s)) := by
  obtain ⟨-, haccepted, hin, -⟩ := h
  obtain ⟨h0, h1⟩ := compareValue_fits haccepted hin
  exact execCmpwr_of_fits h0 h1

/-- Of the core's refusals, safety excludes each: the mark, the reserved phase and the compare value that
does not fit (41_period_tick_driver.md R88). -/
theorem Safe.coreTurn_answers {s : State} (h : Safe s) : ∃ t, coreTurn s = .next t := by
  have hr := h.notRefused
  cases hp : s.phase with
  | idle =>
    cases ht : s.tickPending with
    | true => exact ⟨_, coreTurn_pending hr hp ht⟩
    | false => exact ⟨_, coreTurn_quiescent hr ((isQuiescent_iff s).mpr ⟨hp, ht⟩)⟩
  | acked => exact ⟨_, coreTurn_acked hr hp⟩
  | advanced => exact ⟨_, (coreTurn_advanced hr hp).trans h.execCmpwr_eq⟩
  | reserved => exact absurd hp h.1.1

/-- PERIOD and RESET are enabled in every state, the core in every safe one. -/
theorem Safe.step_answers {s : State} (h : Safe s) : ∃ t, step s = .next t := by
  cases hh : headTurn s with
  | core =>
    obtain ⟨t, ht⟩ := h.after_popTurn.coreTurn_answers
    exact ⟨t, (step_of_head hh).trans ht⟩
  | period => exact ⟨_, step_of_head hh⟩
  | reset c => exact ⟨_, step_of_head hh⟩

/-- Progress and preservation, for any number of steps (60_exceptions.md R100). -/
theorem Safe.run_answers {s : State} (h : Safe s) (k : Nat) : ∃ t, run k s = .next t ∧ Safe t := by
  induction k generalizing s with
  | zero => exact ⟨s, run_zero s, h⟩
  | succ k ih =>
    obtain ⟨u, hu⟩ := h.step_answers
    rw [run_succ_next hu]
    exact ih (everyStepKeepsSafe s u h hu)

/-- The compare write of a safe machine writes `BASE + PW`, the exact integer sum
(41_period_tick_driver.md R89). -/
theorem Safe.step_writes_compareValue {s : State} (h : Safe s) (hturn : headTurn s = .core)
    (hp : s.phase = .advanced) :
    ∃ u, step s = .next u ∧ (u.cmp.toNat : Int) = s.cfgBase.toInt + s.pw.toInt := by
  have hcore : coreTurn (popTurn s) = execCmpwr (popTurn s) :=
    coreTurn_advanced h.after_popTurn.notRefused hp
  have hstep := (step_of_head hturn).trans (hcore.trans h.after_popTurn.execCmpwr_eq)
  obtain ⟨-, haccepted, hin, -⟩ := h
  obtain ⟨h0, h1⟩ := compareValue_fits haccepted hin
  exact ⟨_, hstep, toWord_toNat h0 h1⟩

/-- Settles O45: the run goes on by progress and preservation, and the compare write that comes next is of
a state whose pulse width is in bounds. -/
theorem safeMachineNeverStops : Obligations.SafeMachineNeverStops := by
  intro s hs k
  obtain ⟨t, hrun, ht⟩ := hs.run_answers k
  refine ⟨t, hrun, ht, fun hturn hp => ?_⟩
  obtain ⟨u, hstep, hcmp⟩ := ht.step_writes_compareValue hturn hp
  obtain ⟨-, -, ⟨hlo, hhi⟩, -⟩ := ht
  exact ⟨u, by rw [run_add_next hrun, run_one, hstep], hcmp, by omega, by omega⟩

/-! ### `TICK_PENDING` -/

/-- The core clears the pending bit in `Idle`, where it is ACK or finds the bit clear, and keeps it
otherwise (10_state.md R17). -/
theorem coreTurn_tickPending {s t : State} (h : coreTurn s = .next t) :
    t.tickPending = if s.phase = .idle then false else s.tickPending := by
  obtain ⟨-, ⟨hp, ht, rfl⟩ | ⟨hp, -, rfl⟩ | ⟨hp, rfl⟩ | ⟨hp, -, -, rfl⟩⟩ := coreTurn_next h
  · simp [hp, ht]
  · simp [hp]
  · simp [hp]
  · simp [hp]

/-- Settles O37: by whose turn it was. -/
theorem tickPendingSetByPeriodClearedByAck : Obligations.TickPendingSetByPeriodClearedByAck := by
  intro s t h
  obtain ⟨hh, hc⟩ | ⟨hh, rfl⟩ | ⟨c, hh, rfl⟩ := step_next h
  · rw [hh]
    exact coreTurn_tickPending (s := popTurn s) hc
  · rw [hh]
    rfl
  · rw [hh]
    rfl

/-! ### The mark `Overrun` -/

theorem coreTurn_overrun {s t : State} (h : coreTurn s = .next t) : t.overrun = s.overrun := by
  obtain ⟨-, ⟨-, -, rfl⟩ | ⟨-, -, rfl⟩ | ⟨-, rfl⟩ | ⟨-, -, -, rfl⟩⟩ := coreTurn_next h <;> rfl

/-- The state with the mark `Overrun` at the given value. -/
def withOverrun (b : Bool) (s : State) : State := { s with overrun := b }

theorem execCmpwr_withOverrun (b : Bool) (s : State) :
    execCmpwr (withOverrun b s) = mapNext (withOverrun b) (execCmpwr s) := by
  rw [execCmpwr, execCmpwr, apply_ite (mapNext (withOverrun b))]
  rfl

/-- The core neither reads nor writes the mark. -/
theorem coreTurn_withOverrun (b : Bool) (s : State) :
    coreTurn (withOverrun b s) = mapNext (withOverrun b) (coreTurn s) := by
  obtain ⟨pw, dir, phase, mode, st, lo, hi, base, cmp, tick, ov, refused, tr, ag⟩ := s
  rw [coreTurn_eq, coreTurn_eq]
  cases refused with
  | true => rfl
  | false =>
    cases phase with
    | idle => cases tick <;> rfl
    | acked => rfl
    | advanced => exact execCmpwr_withOverrun b _
    | reserved => rfl

/-- No agent lets the mark decide anything but the mark; RESET does not even keep it. -/
theorem takeTurn_withOverrun (x : Turn) (b : Bool) (s : State) :
    ∃ b', takeTurn x (withOverrun b s) = mapNext (withOverrun b') (takeTurn x s) := by
  cases x with
  | core => exact ⟨b, coreTurn_withOverrun b s⟩
  | period => exact ⟨b || !isQuiescent s, rfl⟩
  | reset c => exact ⟨false, rfl⟩

theorem step_withOverrun (b : Bool) (s : State) :
    ∃ b', step (withOverrun b s) = mapNext (withOverrun b') (step s) :=
  takeTurn_withOverrun (headTurn s) b (popTurn s)

/-- Settles O38: the value of the mark by whose turn it was, and the independence of every agent from
it. -/
theorem overrunMarkIsStickyAndUnread : Obligations.OverrunMarkIsStickyAndUnread := by
  refine ⟨fun s t h => ?_, fun s b => ?_⟩
  · obtain ⟨hh, hc⟩ | ⟨hh, rfl⟩ | ⟨c, hh, rfl⟩ := step_next h
    · rw [hh]
      exact coreTurn_overrun (s := popTurn s) hc
    · rw [hh]
      exact congrArg (s.overrun || ·) (not_isQuiescent (popTurn s))
    · rw [hh]
      rfl
  · obtain ⟨b', hother⟩ := step_withOverrun b s
    cases hs : step s with
    | next t =>
      rw [hs] at hother
      exact ⟨b', hother⟩
    | fault f => cases f
    | refused r =>
      rw [hs] at hother
      exact hother

/-! ### The owners of the other registers -/

/-- The core writes the pair in `Acked` only (10_state.md R13). -/
theorem coreTurn_pair {s t : State} (h : coreTurn s = .next t) (hp : s.phase ≠ .acked) :
    t.pw = s.pw ∧ t.dir = s.dir := by
  obtain ⟨-, ⟨-, -, rfl⟩ | ⟨-, -, rfl⟩ | ⟨hacked, -⟩ | ⟨-, -, -, rfl⟩⟩ := coreTurn_next h
  · exact ⟨rfl, rfl⟩
  · exact ⟨rfl, rfl⟩
  · exact absurd hacked hp
  · exact ⟨rfl, rfl⟩

/-- In Static mode the core never turns the direction (10_state.md R12). -/
theorem coreTurn_static_dir {s t : State} (h : coreTurn s = .next t) (hmode : s.cfgMode = .static) :
    t.dir = s.dir := by
  obtain ⟨-, ⟨-, -, rfl⟩ | ⟨-, -, rfl⟩ | ⟨-, rfl⟩ | ⟨-, -, -, rfl⟩⟩ := coreTurn_next h
  · rfl
  · rfl
  · rw [hmode, applyAdvance_dir, advance_static]
  · rfl

/-- The core writes `CMP` in `Advanced` only (10_state.md R16). -/
theorem coreTurn_cmp {s t : State} (h : coreTurn s = .next t) (hp : s.phase ≠ .advanced) :
    t.cmp = s.cmp := by
  obtain ⟨-, ⟨-, -, rfl⟩ | ⟨-, -, rfl⟩ | ⟨-, rfl⟩ | ⟨hadvanced, -⟩⟩ := coreTurn_next h
  · rfl
  · rfl
  · rfl
  · exact absurd hadvanced hp

section Owners

variable {s t : State}

theorem pair_owner (h : step s = .next t) (hchanged : t.pw ≠ s.pw ∨ t.dir ≠ s.dir) :
    (headTurn s = .core ∧ s.phase = .acked) ∨ (headTurn s).isReset = true := by
  obtain ⟨hh, hc⟩ | ⟨-, rfl⟩ | ⟨c, hh, -⟩ := step_next h
  · refine .inl ⟨hh, by_contra fun hp => ?_⟩
    obtain ⟨hpw, hdir⟩ := coreTurn_pair (s := popTurn s) hc hp
    exact hchanged.elim (· hpw) (· hdir)
  · exact (hchanged.elim (· rfl) (· rfl)).elim
  · exact .inr (by rw [hh]; rfl)

theorem dir_owner (h : step s = .next t) (hchanged : t.dir ≠ s.dir) :
    s.cfgMode = .sweep ∨ (headTurn s).isReset = true := by
  obtain ⟨-, hc⟩ | ⟨-, rfl⟩ | ⟨c, hh, -⟩ := step_next h
  · cases hmode : s.cfgMode with
    | static => exact absurd (coreTurn_static_dir (s := popTurn s) hc hmode) hchanged
    | sweep => exact .inl rfl
  · exact absurd rfl hchanged
  · exact .inr (by rw [hh]; rfl)

theorem phase_owner (h : step s = .next t) (hchanged : t.phase ≠ s.phase) :
    headTurn s = .core ∨ (headTurn s).isReset = true := by
  obtain ⟨hh, -⟩ | ⟨-, rfl⟩ | ⟨c, hh, -⟩ := step_next h
  · exact .inl hh
  · exact absurd rfl hchanged
  · exact .inr (by rw [hh]; rfl)

theorem configuration_owner (h : step s = .next t)
    (hchanged : t.cfgMode ≠ s.cfgMode ∨ t.cfgStep ≠ s.cfgStep ∨ t.cfgLo ≠ s.cfgLo ∨ t.cfgHi ≠ s.cfgHi
      ∨ t.cfgBase ≠ s.cfgBase ∨ t.configRefused ≠ s.configRefused) :
    (headTurn s).isReset = true := by
  by_contra hreset
  obtain ⟨hmode, hst, hlo, hhi, hbase, hrefused⟩ :=
    step_sameConfiguration h (Bool.eq_false_of_not_eq_true hreset)
  simp [hmode, hst, hlo, hhi, hbase, hrefused] at hchanged

theorem tickPending_owner (h : step s = .next t) (hchanged : t.tickPending ≠ s.tickPending) :
    (headTurn s = .period ∧ t.tickPending = true)
      ∨ (headTurn s = .core ∧ s.phase = .idle ∧ t.tickPending = false) := by
  obtain ⟨hh, hc⟩ | ⟨hh, rfl⟩ | ⟨c, -, rfl⟩ := step_next h
  · have ht := coreTurn_tickPending (s := popTurn s) hc
    by_cases hp : s.phase = .idle
    · exact .inr ⟨hh, hp, ht.trans (if_pos hp)⟩
    · exact absurd (ht.trans (if_neg hp)) hchanged
  · exact .inl ⟨hh, rfl⟩
  · exact absurd rfl hchanged

theorem cmp_owner (h : step s = .next t) (hchanged : t.cmp ≠ s.cmp) :
    headTurn s = .core ∧ s.phase = .advanced := by
  obtain ⟨hh, hc⟩ | ⟨-, rfl⟩ | ⟨c, -, rfl⟩ := step_next h
  · exact ⟨hh, by_contra fun hp => hchanged (coreTurn_cmp (s := popTurn s) hc hp)⟩
  · exact absurd rfl hchanged
  · exact absurd rfl hchanged

end Owners

/-- Settles O39: a row of the table each. -/
theorem everyRegisterHasItsOwner : Obligations.EveryRegisterHasItsOwner :=
  fun _ _ h => ⟨pair_owner h, dir_owner h, phase_owner h, configuration_owner h, tickPending_owner h,
    cmp_owner h⟩

/-! ### Single turns -/

/-- Settles O14: a scheduled PERIOD is `takePeriod`, whose mark is by quiescence. -/
theorem periodEffect : Obligations.PeriodEffect := by
  intro s rest ha
  rw [step_period_cons ha, ← not_isQuiescent]
  rfl

/-- While `ConfigRefused` is set the core has no turn (60_exceptions.md R101). -/
theorem coreTurn_refused {s : State} (hr : s.configRefused = true) :
    coreTurn s = .refused .illFormedConfiguration := by
  rw [coreTurn_eq, if_pos hr]

/-- Settles O16: the step is the core's turn, and taking it off the agenda keeps the mark. -/
theorem refusedConfigurationHasNoCoreSteps : Obligations.RefusedConfigurationHasNoCoreSteps := by
  intro s hr hturn
  exact (step_of_head hturn).trans (coreTurn_refused (s := popTurn s) hr)

/-! ### PERIOD against ACK, and the quiescent core -/

/-- Settles O34: PERIOD first finds the bit set, ACK first leaves a service in progress; either way it
marks `Overrun`. -/
theorem periodAgainstAckBothOrders : Obligations.PeriodAgainstAckBothOrders := by
  intro s rest hr hp ht
  have hflags (a : List Turn) : { s with agenda := a } = withFlags true s.overrun a s := by
    rw [withFlags, ← ht]
  have hlate : step (withFlags true s.overrun (.period :: .core :: rest) s)
      = .next (withFlags true true (.core :: rest) s) := step_period_overrun (.inl rfl) _ _
  have hack : step { s with agenda := .core :: .period :: rest }
      = .next (withFlags false s.overrun (.period :: rest) (enterService s)) := by
    rw [step_core_cons rfl]
    exact coreTurn_pending hr hp ht
  constructor
  · rw [hflags, run_succ_next hlate, run_one, step_core_cons rfl]
    exact coreTurn_pending hr hp rfl
  · rw [run_succ_next hack, run_one, step_period_overrun (.inr (by simp))]
    rfl

/-- Settles O35: every step is a WAIT, by induction on the number of steps. -/
theorem quiescentCoreKeepsItsState : Obligations.QuiescentCoreKeepsItsState := by
  intro k s hr hq ha
  have hstep : step s = .next s := (step_of_agenda_nil ha).trans (coreTurn_quiescent hr hq)
  induction k with
  | zero => exact run_zero s
  | succ k ih => rw [run_succ_next hstep, ih]

end Sys2Proof.Machine

/-!
PROOFS, reset (70_reset_and_hazards.md): what RESET writes and what only it writes (R120), and what it
lets survive of the run before it (R121).
-/

namespace Sys2Proof.Machine

/-! ### The effect of RESET -/

/-- The mark that RESET sets, by WF1 to WF4 written out (00_scope.md R6). -/
theorem not_cfgAccepted_iff (c : Cfg) :
    (!cfgAccepted c) = true ↔ ¬ (c.lo.toInt ≤ c.hi.toInt
      ∧ |c.step.toInt| ≤ c.hi.toInt - c.lo.toInt
      ∧ (-2147483648 ≤ c.lo.toInt - |c.step.toInt|
          ∧ c.hi.toInt + |c.step.toInt| ≤ 2147483647
          ∧ c.step.toInt ≠ -2147483648)
      ∧ (0 ≤ c.base.toInt + c.lo.toInt
          ∧ c.base.toInt + c.hi.toInt ≤ 2147483647)) := by
  rw [← magnitude_eq_abs, ← wfCore_word_iff, Bool.not_eq_true', Bool.not_eq_true]
  rfl

/-- Where no RESET is first on the agenda, the turn is not one. -/
theorem headTurn_isReset_of_agenda_ne {s : State} (h : ∀ c rest, s.agenda ≠ .reset c :: rest) :
    (headTurn s).isReset = false := by
  cases ha : s.agenda with
  | nil =>
    rw [headTurn_nil ha]
    rfl
  | cons x rest =>
    rw [headTurn_cons ha]
    cases x with
    | core => rfl
    | period => rfl
    | reset c => exact absurd ha (h c rest)

/-- Settles O15: a scheduled RESET is `takeReset`, and no other step touches the configuration. -/
theorem resetEffect : Obligations.ResetEffect := by
  refine ⟨fun s c rest ha => ⟨!cfgAccepted c, step_reset_cons ha, not_cfgAccepted_iff c⟩,
    fun s t h hreset => ?_⟩
  have same := step_sameConfiguration h (headTurn_isReset_of_agenda_ne hreset)
  exact ⟨same.mode, same.step, same.lo, same.hi, same.base⟩

/-! ### The trace is added to and read by nothing -/

/-- The state with the events `past` put in front of its trace. -/
def withPast (past : List Event) (s : State) : State := { s with trace := past ++ s.trace }

theorem emit_withPast (past : List Event) (e : Event) (s : State) :
    emit e (withPast past s) = withPast past (emit e s) := by
  simp [emit, withPast]

theorem enterService_withPast (past : List Event) (s : State) :
    enterService (withPast past s) = withPast past (enterService s) :=
  congrArg (setPhase .acked) (emit_withPast past .ack { s with tickPending := false })

theorem cmpWrite_withPast (past : List Event) (v : Word) (s : State) :
    cmpWrite v (withPast past s) = withPast past (cmpWrite v s) :=
  emit_withPast past (.cmp v) { s with cmp := v }

theorem execCmpwr_withPast (past : List Event) (s : State) :
    execCmpwr (withPast past s) = mapNext (withPast past) (execCmpwr s) := by
  have hvalue : compareValue (withPast past s) = compareValue s := rfl
  rw [execCmpwr, execCmpwr, apply_ite (mapNext (withPast past)), hvalue, cmpWrite_withPast]
  rfl

/-- By phase: ACK and CMPWR add an event at the end, and none looks at the trace. -/
theorem coreTurn_withPast (past : List Event) (s : State) :
    coreTurn (withPast past s) = mapNext (withPast past) (coreTurn s) := by
  obtain ⟨pw, dir, phase, mode, st, lo, hi, base, cmp, tick, ov, refused, tr, ag⟩ := s
  rw [coreTurn_eq, coreTurn_eq]
  cases refused with
  | true => rfl
  | false =>
    cases phase with
    | idle =>
      cases tick with
      | true => exact congrArg Host.Outcome.next (enterService_withPast past _)
      | false => rfl
    | acked => rfl
    | advanced => exact execCmpwr_withPast past _
    | reserved => rfl

theorem takeTurn_withPast (x : Turn) (past : List Event) (s : State) :
    takeTurn x (withPast past s) = mapNext (withPast past) (takeTurn x s) := by
  cases x with
  | core => exact coreTurn_withPast past s
  | period => rfl
  | reset c => rfl

theorem step_withPast (past : List Event) (s : State) :
    step (withPast past s) = mapNext (withPast past) (step s) :=
  takeTurn_withPast (headTurn s) past (popTurn s)

/-- Whatever every step commutes with, every run does. -/
theorem run_mapNext {f : State → State} (hstep : ∀ s, step (f s) = mapNext f (step s)) (k : Nat)
    (s : State) : run k (f s) = mapNext f (run k s) := by
  induction k generalizing s with
  | zero => rfl
  | succ k ih =>
    rw [run_succ, run_succ, hstep]
    cases step s with
    | next t => exact ih t
    | fault e => rfl
    | refused r => rfl

/-! ### What survives a RESET -/

/-- The state that RESET leaves with nothing emitted yet: of the run before it, it holds `CMP` and
`TICK_PENDING` only (70_reset_and_hazards.md R121). -/
def freshReset (c : Cfg) (rest : List Turn) (cmp : Word) (pending : Bool) : State :=
  takeReset c { State.reset with cmp := cmp, tickPending := pending, agenda := rest }

/-- A run that begins with a RESET is the run of the fresh state, after the trace so far. -/
theorem run_reset_cons {s : State} {c : Cfg} {rest : List Turn} (ha : s.agenda = .reset c :: rest)
    (k : Nat) :
    run (k + 1) s
      = mapNext (withPast s.trace) (run k (freshReset c rest s.cmp s.tickPending)) := by
  have hfresh : takeReset c { s with agenda := rest }
      = withPast s.trace (freshReset c rest s.cmp s.tickPending) := by
    simp [withPast, freshReset, takeReset, State.reset]
  rw [run_succ_next (step_reset_cons ha), hfresh, run_mapNext (step_withPast s.trace)]

/-- Settles O41: both runs are those of a fresh state, which differ in `CMP` alone; and `CMP` is never
read (`run_sameButForCmp`). -/
theorem resetForgetsThePast : Obligations.ResetForgetsThePast := by
  intro k s u c rest hs hu hpending
  have hsame : SameButForCmp _ _ (run k (freshReset c rest s.cmp s.tickPending))
      (run k (freshReset c rest u.cmp s.tickPending)) := run_sameButForCmp k _ u.cmp
  rw [run_reset_cons hs, run_reset_cons hu, ← hpending]
  cases hrun : run k (freshReset c rest s.cmp s.tickPending) with
  | next t =>
    rw [hrun] at hsame
    obtain ⟨ev, htrace, hother, -⟩ := hsame
    obtain rfl : t.trace = ev := htrace
    exact ⟨t.trace, rfl, congrArg (mapNext (withPast u.trace)) hother⟩
  | fault f => cases f
  | refused r =>
    rw [hrun] at hsame
    exact congrArg (mapNext (withPast u.trace)) hsame

end Sys2Proof.Machine
